-- ==== Sys2Proof/Word.lean ====
section
/-! DEFINITION. The number types of 00_scope.md section 4, the two-valued table selector `which` of
30_encoding.md rule R52, and a fixed-length array built from a function. -/

namespace Sys2Proof

/-- `u8`: a byte of the buffer (R29). -/
abbrev U8 := BitVec 8

/-- `u32`: an accumulator, a table word, a command word (R4, R8, R17). -/
abbrev U32 := BitVec 32

/-- `u64`: the word unit of eight bytes (R4, R32). -/
abbrev U64 := BitVec 64

/-- `which` of ZTAB, SHIFT and COMBINE: short (`ZS`, 256 bytes, `T = 0`) or long (`ZL`, 8192 bytes,
`T = 1`) (R44, R52). -/
inductive TableSel where
  | short
  | long
  deriving DecidableEq, Repr

/-- The array whose element `i` is `f i`. -/
def tabulate {α : Type} (n : Nat) (f : Fin n → α) : Vector α n :=
  ⟨⟨List.ofFn f⟩, by simp⟩

end Sys2Proof
end

