-- ==== Sys2Proof/Config.lean ====
section
/-! DEFINITION. What an instance of the engine fixes (00_scope.md rule R6) and the free values: the values the
spec leaves open, opaque constants nothing can be proved about. -/

namespace Sys2Proof

/-- The value of the parameter `AW` in `State.reset` (R6, D2). The spec leaves it open with `AW >= 16` and suggests
64. DESIGN CHOICE 64 (entry 2). `AW` itself is a field of State, so a statement about every state covers every
width. -/
def Config.awAtReset : Nat := 64

/-- The value of the input `HW_CAP` in `State.reset` (R6, R20, D11). The spec leaves it open. DESIGN CHOICE: the
unit is present (entry 3). `HW_CAP` itself is a field of State, so a statement about every state covers both. -/
def Config.hwCapAtReset : Bool := true

/-- What `NEXT` holds, for a given `AW`, after it was advanced by `k` bytes from the given address to `2^AW` exactly;
its user keeps the low `AW` bits. R33 allows `A + N = 2^AW` and U2 says that `NEXT + 1` at the top address is not
defined. A free value (entry 6). -/
opaque Config.nextPastTop : (aw next k : Nat) → Nat

/-- What the host reads from `RES` before any command has responded since reset (R27, U5). A free value
(entry 5). -/
opaque Config.resBeforeResponse : U32

end Sys2Proof
end

