-- ==== Sys2Proof/Syntax.lean ====
section
/-! DEFINITION. The 22 operations of 30_encoding.md rule R43, one constructor per row of opcode_table.json. -/

namespace Sys2Proof

/-- The operation set (R43). Only `T` is an operand inside the word (R44); host commands take their operands from
`A`, `N`, `S` (R45), micro-operations from the sequencer. -/
inductive Instr where
  /-- INIT, host command 0x01 (R87). -/
  | init
  /-- CRC32C, host command 0x02 (R89). -/
  | crc32c
  /-- CRC_SW, host command 0x03 (R72). -/
  | crcSw
  /-- CRC_HW, host command 0x04 (R83). -/
  | crcHw
  /-- MTIMES, micro-operation 0x10 (R53). -/
  | mtimes
  /-- MSQUARE, micro-operation 0x11 (R54). -/
  | msquare
  /-- ZOP, micro-operation 0x12 (R56). -/
  | zop
  /-- ZTAB, micro-operation 0x13 (R57). -/
  | ztab (which : TableSel)
  /-- SHIFT, micro-operation 0x14 (R58). -/
  | shift (which : TableSel)
  /-- COMBINE, micro-operation 0x15 (R69). -/
  | combine (which : TableSel)
  /-- BTAB, micro-operation 0x18 (R61). -/
  | btab
  /-- SWB, micro-operation 0x20 (R64). -/
  | swb
  /-- SWW, micro-operation 0x21 (R65). -/
  | sww
  /-- SW1, micro-operation 0x22 (R67). -/
  | sw1
  /-- SW3S, micro-operation 0x23 (R70). -/
  | sw3s
  /-- SW3L, micro-operation 0x24 (R71). -/
  | sw3l
  /-- HWB, micro-operation 0x30 (R77). -/
  | hwb
  /-- HWW, micro-operation 0x31 (R78). -/
  | hww
  /-- HW1, micro-operation 0x32 (R80). -/
  | hw1
  /-- HW3S, micro-operation 0x33 (R81). -/
  | hw3s
  /-- HW3L, micro-operation 0x34 (R82). -/
  | hw3l
  /-- DETECT, micro-operation 0x40 (R86). -/
  | detect
  deriving DecidableEq, Repr

end Sys2Proof
end

