-- ==== Sys2Proof/Machine/State.lean ====
section
/-! DEFINITION. The state of the engine (10_state.md), the reasons a step can stop, and the state after reset
(10_state.md rule R25). -/

namespace Sys2Proof.Machine

/-- A GF(2) matrix: 32 words, word `i` the image of the vector with only bit `i` set (R14). -/
abbrev Matrix := Vector U32 32

/-- The byte table `BT`: 8 rows of 256 words (R12). -/
abbrev ByteTable := Vector (Vector U32 256) 8

/-- A shift-operator table, `ZS` or `ZL`: 4 rows of 256 words (R13). -/
abbrev ShiftTable := Vector (Vector U32 256) 4

/-- The dispatch binding (R15, R85). -/
inductive Binding where
  | uninitialized
  | detecting
  | boundSoftware
  | boundHardware
  deriving DecidableEq, Repr

/-- The 2-bit number of a binding (R15, D4). -/
def Binding.code : Binding → BitVec 2
  | .uninitialized => 0
  | .detecting => 1
  | .boundSoftware => 2
  | .boundHardware => 3

/-- The sequencer's phase `PH` (R23). -/
inductive Phase where
  | idle
  | init
  | detect
  | p
  | l
  | s
  | w
  | t
  deriving DecidableEq, Repr

/-- The status of a response, `ST` (R18, R103). The value 3 is never produced and has no name. -/
inductive Status where
  | ok
  | illegal
  | unavailable
  deriving DecidableEq, Repr

/-- The 2-bit number of a status (R18, R103). -/
def Status.code : Status → BitVec 2
  | .ok => 0
  | .illegal => 1
  | .unavailable => 2

/-- The four host commands (R43). -/
inductive HostCmd where
  | init
  | crc32c
  | crcSw
  | crcHw
  deriving DecidableEq, Repr

/-- The two engines (R2). -/
inductive Engine where
  | software
  | hardware
  deriving DecidableEq, Repr

/-- Which scratch matrix holds the current operator: the variable `where` of ZOP (R56). -/
inductive Scratch where
  | odd
  | even
  deriving DecidableEq, Repr

/-- The model's own port for a micro-operation performed on its own (entry 4): R45 lets a micro-operation take its
operands "from the sequencer", R47 gives it a code that names the step in a trace, R52 says what its operands are.
No host command reads or writes it. -/
structure MicroPort where
  /-- the micro-operation word the sequencer performs next, if there is one -/
  slot : Option U32
  /-- the `u32` operand: `vec` of MTIMES, `c` of SHIFT, `a` of SWB, SWW, HWB, HWW -/
  vec : U32
  /-- the `u8` operand: `b` of SWB and HWB -/
  byte : U8
  /-- the `u64` operand: `w` of SWW and HWW -/
  data : U64
  /-- the byte count `len` of ZOP, a `uAW` number -/
  len : Nat
  /-- the `u32` result of MTIMES, SHIFT, SWB, SWW, HWB, HWW -/
  out : U32
  deriving DecidableEq, Repr

/-- Everything the spec gives the machine, and the fields of the model's own that entries 4 and 5 name. The width
`AW` of addresses and lengths is a parameter (R6), so a `uAW` element is the number it holds (section 4: arithmetic on
`uAW` values is exact); that it is below `2^AW` is part of the invariant. -/
structure State where
  /-- `INIT_DONE` (R16) -/
  initDone : Bool
  /-- `BIND` (R15) -/
  bind : Binding
  /-- `BT` (R12); none is the spec's own "unwritten" (R25, R27, U7) -/
  bt : Option ByteTable
  /-- `ZS` (R13); none is "unwritten" -/
  zs : Option ShiftTable
  /-- `ZL` (R13); none is "unwritten" -/
  zl : Option ShiftTable
  /-- `ACC0` (R8) -/
  acc0 : U32
  /-- `ACC1` (R9) -/
  acc1 : U32
  /-- `ACC2` (R9) -/
  acc2 : U32
  /-- `NEXT`, `uAW` (R10) -/
  next : Nat
  /-- `LEN`, `uAW` (R11) -/
  len : Nat
  /-- `PH` (R23) -/
  ph : Phase
  /-- `MEVEN` (R14); none is "unwritten" -/
  meven : Option Matrix
  /-- `MODD` (R14); none is "unwritten" -/
  modd : Option Matrix
  /-- which of the two scratch matrices holds the operator (R56's `where`; entry 4) -/
  scratch : Scratch
  /-- `CW` (R17, R44) -/
  cw : U32
  /-- `A`, `uAW` (R17) -/
  a : Nat
  /-- `N`, `uAW` (R17) -/
  n : Nat
  /-- `S` (R17) -/
  seed : U32
  /-- `RES` (R18) -/
  res : U32
  /-- `ST` (R18) -/
  st : Status
  /-- the constant input `HW_CAP` (R20) -/
  hwCap : Bool
  /-- the parameter `AW`, at least 16: the width of an address and of a length (R6, D2) -/
  aw : Nat
  /-- buffer memory (R28, R29): the bytes the host's memory admits for reading -/
  mem : List Host.Cell
  /-- `CW` was written and its command is not yet taken (R45; entry 4) -/
  cwPending : Bool
  /-- a command has responded since reset (U5; entry 5) -/
  resValid : Bool
  /-- the port for a micro-operation performed on its own (entry 4) -/
  micro : MicroPort
  deriving DecidableEq, Repr

/-- Why a step has no successor: every one of these is a STUCK state (R101, R27), never an error the engine
reports. All are safe: the model stops where the spec gives no effect. -/
inductive Fault where
  /-- Raised by MemRead at an address the host's memory does not admit (R101, U1). Safe. -/
  | unreadableAddress
  /-- Raised by MemRead at an address not below `2^AW`, and by an advance of `NEXT` past `2^AW` (U2). Safe. -/
  | addressPastTop
  /-- Raised by an 8-byte MemRead at an address that is no multiple of 8: "the spec defines no behaviour for one"
  (R34). Safe. -/
  | misalignedWordRead
  /-- Raised by a read of `BT`, `ZS` or `ZL` while `INIT_DONE == 0` or before the table was written (R16, R27, U7).
  Safe. -/
  | tableNotBuilt
  /-- Raised by a read of `MEVEN` or `MODD` before it was written (R27, U7). Safe. -/
  | matrixUnwritten
  /-- Raised by a three-way group started with fewer than `3*BLOCK` bytes left (R70, R71, R81, R82
  preconditions; R11). Safe. -/
  | groupPastEnd
  /-- Raised by a step of the hardware checksum unit while `HW_CAP == 0`: the unit is not present (R20, R109, D12).
  Safe. -/
  | checksumUnitAbsent
  /-- Raised by DETECT started with `BIND` not `Uninitialized` ("only ever started with BIND == Uninitialized", R86;
  R85). Safe. -/
  | detectStartedTwice
  /-- Raised by the sequencer in a phase that R24 gives the command in `CW` no way to reach. Safe. -/
  | noSuchPhase
  deriving DecidableEq, Repr

/-- Why the model gives an instruction no meaning. -/
inductive Refusal where
  /-- Raised by `exec` alone, for an instruction without a meaning yet. Safe. -/
  | notModelled (mnemonic : String)
  /-- Raised by ZOP with `len == 0`: treatment `refuse` of U6 (R56, D17). Safe. -/
  | zopOfZero
  /-- Raised by a step whose micro-operation slot holds a word that is no micro-operation: the sequencer has no such
  step (R43, R47). Safe. -/
  | notAMicroOperation
  deriving DecidableEq, Repr

/-- The micro-operation port at reset: DESIGN CHOICE, entry 4 (empty; `len` one of the two counts the engine
requests, R56). -/
def MicroPort.reset : MicroPort :=
  { slot := none, vec := 0, byte := 0, data := 0, len := 256, out := 0 }

/-- The state after reset (R25), for an instance whose parameters `HW_CAP` and `AW` are given (R6) and a host memory.
The values R25 gives:
`INIT_DONE`, `BIND`, `PH`, `ST`, the unwritten tables and matrices. Zero in the "unspecified" registers is a DESIGN
CHOICE (entry 1), as are the model's own fields (entries 4 and 5). -/
def State.resetWith (hwCap : Bool) (aw : Nat) (mem : List Host.Cell) : State :=
  { initDone := false, bind := .uninitialized, bt := none, zs := none, zl := none
    acc0 := 0, acc1 := 0, acc2 := 0, next := 0, len := 0, ph := .idle
    meven := none, modd := none, scratch := .odd
    cw := 0, a := 0, n := 0, seed := 0, res := 0, st := .ok
    hwCap := hwCap, aw := aw, mem := mem
    cwPending := false, resValid := false, micro := .reset }

/-- The machine right after reset (R25, R115), with nothing listed in the host's memory (entry 7). -/
def State.reset : State := State.resetWith Config.hwCapAtReset Config.awAtReset []

end Sys2Proof.Machine
end

