-- ==== Sys2Proof/Machine/Lfsr.lean ====
section
/-! DEFINITION. The fixed constants (00_scope.md rules R3, R4) and the LFSR step of 00_scope.md section 4. -/

namespace Sys2Proof.Machine

/-- The reversed CRC32C polynomial (R3). -/
def poly : U32 := 0x82F63B78

/-- `SHORT`, the short block in bytes (R4). -/
def shortBlock : Nat := 256

/-- `LONG`, the long block in bytes (R4). -/
def longBlock : Nat := 8192

/-- The block size a table selector stands for (R44). -/
def blockOf : TableSel → Nat
  | .short => shortBlock
  | .long => longBlock

/-- The complement mask of R63. -/
def allOnes : U32 := 0xFFFFFFFF

/-- `Z1`: one LFSR step with a zero input bit, reflected form (section 4). -/
def z1 (v : U32) : U32 :=
  (v >>> 1) ^^^ (if v.getLsbD 0 then poly else 0)

/-- `Zn(v, n)`: `n` applications of `Z1` (section 4). -/
def zn (v : U32) : Nat → U32
  | 0 => v
  | n + 1 => z1 (zn v n)

/-- `Z8`: one zero byte (section 4). -/
def z8 (v : U32) : U32 := zn v 8

end Sys2Proof.Machine
end

