-- ==== Sys2Proof/Machine/Ops.lean ====
section
/-! DEFINITION. The named operations over buffer memory, table memory and registers. The engine has no exception
entry and no return from one (60_exceptions.md rules R104, R107, R110): what ends a command, refusals included, is the
response of 30_encoding.md rule R46. -/

namespace Sys2Proof.Machine

/-- The outcome of a meaning that either has a next state or is stuck. -/
def toOutcome : Except Fault State → Host.Outcome State Fault Refusal
  | .ok s => .next s
  | .error f => .fault f

/-! ## Buffer memory (20_memory.md) -/

/-- The byte at an address, none where the host's memory does not admit a read (R29, D15). -/
def Memory.read (mem : List Host.Cell) (addr : Nat) : Option U8 := List.lookup addr mem

/-- The memory with one byte set by its owner, the host (R29); the engine never writes (R36). -/
def Memory.write : List Host.Cell → Nat → U8 → List Host.Cell
  | [], addr, b => [(addr, b)]
  | (k, v) :: rest, addr, b =>
    if addr < k then (addr, b) :: (k, v) :: rest
    else if addr = k then (addr, b) :: rest
    else (k, v) :: Memory.write rest addr b

/-- Consecutive bytes set by the host from an address on. -/
def Memory.writeAll (mem : List Host.Cell) (addr : Nat) : List U8 → List Host.Cell
  | [] => mem
  | b :: bs => Memory.writeAll (Memory.write mem addr b) (addr + 1) bs

/-- The canonical form above a bound: addresses strictly rising and below `2^AW` (R29). An unlisted address reads as
no byte at all, so no entry can equal it. -/
def Memory.wfFrom (aw : Nat) : Nat → List Host.Cell → Bool
  | _, [] => true
  | low, (k, _) :: rest => decide (low ≤ k) && decide (k < 2 ^ aw) && Memory.wfFrom aw (k + 1) rest

/-- The canonical form of a memory whose addresses have `AW` bits. -/
def Memory.wf (aw : Nat) (mem : List Host.Cell) : Bool := Memory.wfFrom aw 0 mem

/-- `MemRead(addr, 1)` (R31): stuck past the top of the address space (U2) and where the host's memory admits no
read (R101, U1). -/
def memRead1 (s : State) (addr : Nat) : Except Fault U8 :=
  if addr < 2 ^ s.aw then
    match Memory.read s.mem addr with
    | some b => .ok b
    | none => .error .unreadableAddress
  else .error .addressPastTop

/-- Eight bytes assembled little-endian, the first at the lowest address (R32, D6). -/
def littleEndian (b0 b1 b2 b3 b4 b5 b6 b7 : U8) : U64 :=
  b7 ++ b6 ++ b5 ++ b4 ++ b3 ++ b2 ++ b1 ++ b0

/-- `MemRead(addr, 8)` (R32, R37), issued only at a multiple of 8 (R34). -/
def memRead8 (s : State) (addr : Nat) : Except Fault U64 :=
  if addr % 8 = 0 then do
    let b0 ← memRead1 s addr
    let b1 ← memRead1 s (addr + 1)
    let b2 ← memRead1 s (addr + 2)
    let b3 ← memRead1 s (addr + 3)
    let b4 ← memRead1 s (addr + 4)
    let b5 ← memRead1 s (addr + 5)
    let b6 ← memRead1 s (addr + 6)
    let b7 ← memRead1 s (addr + 7)
    .ok (littleEndian b0 b1 b2 b3 b4 b5 b6 b7)
  else .error .misalignedWordRead

/-! ## Table memory (20_memory.md rule R30) -/

/-- `BT` for reading: only with `INIT_DONE == 1` and the table written (R16, R39, U7). -/
def readByteTable (s : State) : Except Fault ByteTable :=
  match s.initDone, s.bt with
  | true, some t => .ok t
  | _, _ => .error .tableNotBuilt

/-- `ZS` or `ZL` as it stands. -/
def shiftTable (s : State) : TableSel → Option ShiftTable
  | .short => s.zs
  | .long => s.zl

/-- `ZS` or `ZL` for reading: only with `INIT_DONE == 1` and the table written (R16, R58, U7). -/
def readShiftTable (s : State) (which : TableSel) : Except Fault ShiftTable :=
  match s.initDone, shiftTable s which with
  | true, some t => .ok t
  | _, _ => .error .tableNotBuilt

/-- `BT <- t` (R61). -/
def setByteTable (t : ByteTable) (s : State) : State := { s with bt := some t }

/-- `ZS <- t` or `ZL <- t` (R57). -/
def setShiftTable (which : TableSel) (t : ShiftTable) (s : State) : State :=
  match which with
  | .short => { s with zs := some t }
  | .long => { s with zl := some t }

/-- `MODD <- m; where <- ODD` (R56). -/
def setOdd (m : Matrix) (s : State) : State := { s with modd := some m, scratch := .odd }

/-- `MEVEN <- m; where <- EVEN` (R56). -/
def setEven (m : Matrix) (s : State) : State := { s with meven := some m, scratch := .even }

/-! ## Registers -/

/-- `ACC0 <- v` (R8). -/
def setAcc0 (v : U32) (s : State) : State := { s with acc0 := v }

/-- `ACC1 <- v` (R9). -/
def setAcc1 (v : U32) (s : State) : State := { s with acc1 := v }

/-- `ACC2 <- v` (R9). -/
def setAcc2 (v : U32) (s : State) : State := { s with acc2 := v }

/-- `PH <- ph` (R23). -/
def enterPhase (ph : Phase) (s : State) : State := { s with ph := ph }

/-- `BIND <- b` (R15). -/
def setBind (b : Binding) (s : State) : State := { s with bind := b }

/-- `INIT_DONE <- 1` (R16). -/
def setInitDone (s : State) : State := { s with initDone := true }

/-- The result of a micro-operation performed on its own (entry 4). -/
def setOut (v : U32) (s : State) : State := { s with micro := { s.micro with out := v } }

/-- `ACC0 <- S ^ 0xFFFFFFFF; NEXT <- A; LEN <- N; PH <- P` (R63, R72). -/
def loadOperands (s : State) : State :=
  { s with acc0 := s.seed ^^^ allOnes, next := s.a, len := s.n, ph := .p }

/-- `NEXT + k`, the value at `2^AW` being free (R10, U2, entry 6). -/
def nextAfter (aw next k : Nat) : Nat :=
  if next + k < 2 ^ aw then next + k else Config.nextPastTop aw next k % 2 ^ aw

/-- `NEXT <- NEXT + k; LEN <- LEN - k` (R10, R11), for `k <= LEN`. Stuck where the bytes still to come lie past the
top of the address space (U2). -/
def advance (k : Nat) (s : State) : Except Fault State :=
  if s.next + k < 2 ^ s.aw ∨ (s.next + k = 2 ^ s.aw ∧ s.len = k) then
    .ok { s with next := nextAfter s.aw s.next k, len := s.len - k }
  else .error .addressPastTop

/-- `respond(st, r)`: `ST <- st; RES <- r; PH <- IDLE` (R46). -/
def respond (st : Status) (r : U32) (s : State) : State :=
  { s with st := st, res := r, ph := .idle, resValid := true }

/-- The response to a word that R48 does not admit: `respond(ILLEGAL, 0)` and nothing else (R108). -/
def respondIllegal (s : State) : State := respond .illegal 0 s

/-- The command in `CW` is taken (R45; entry 4). -/
def takeCommand (s : State) : State := { s with cwPending := false }

/-- The micro-operation in the slot is taken (entry 4). -/
def takeMicro (s : State) : State := { s with micro := { s.micro with slot := none } }

end Sys2Proof.Machine
end

