-- ==== Sys2Proof/Machine/Flags.lean ====
section
/-! DEFINITION. The engine has no flags, condition codes or predicate registers (10_state.md rule R21). What stands in
their place are the only conditions the sequencer tests: comparisons of `LEN` with constants and `NEXT mod 8` with
zero (R21, R24). -/

namespace Sys2Proof.Machine

/-- `LEN != 0` -/
def bytesLeft (s : State) : Bool := decide (s.len ≠ 0)

/-- `NEXT mod 8 != 0` -/
def nextUnaligned (s : State) : Bool := decide (s.next % 8 ≠ 0)

/-- Phase `P` goes on: `LEN != 0 and NEXT mod 8 != 0` (R24, R67). -/
def prologueGoesOn (s : State) : Bool := bytesLeft s && nextUnaligned s

/-- A three-way group fits: `LEN >= 3*BLOCK` (R24). -/
def groupFits (which : TableSel) (s : State) : Bool := decide (3 * blockOf which ≤ s.len)

/-- A word fits: `LEN >= 8` (R24, R67). -/
def wordFits (s : State) : Bool := decide (8 ≤ s.len)

end Sys2Proof.Machine
end

