-- ==== Sys2Proof/Machine/Operands.lean ====
section
/-! DEFINITION. Where an operation finds its operands (30_encoding.md rule R45): the current scratch matrix, the bytes
at `NEXT`, the bytes of a word, an element of a table. -/

namespace Sys2Proof.Machine

/-- The operator in the scratch matrix that `where` names (R56); stuck if it was never written (U7). -/
def currentMatrix (s : State) : Except Fault Matrix :=
  match s.scratch, s.modd, s.meven with
  | .odd, some m, _ => .ok m
  | .even, _, some m => .ok m
  | _, _, _ => .error .matrixUnwritten

/-- `MemRead(NEXT, 1)` -/
def nextByte (s : State) : Except Fault U8 := memRead1 s s.next

/-- `MemRead(NEXT, 8)` -/
def nextWord (s : State) : Except Fault U64 := memRead8 s s.next

/-- Byte `j` of a value: bits `[8*j+7 : 8*j]` (R65). -/
def byteAt {n : Nat} (x : BitVec n) (j : Nat) : U8 := x.extractLsb' (8 * j) 8

/-- `TAB[k][b]`, a whole 32-bit word (R28, R37, D26). -/
def tableAt {rows : Nat} (t : Vector (Vector U32 256) rows) (k : Fin rows) (b : U8) : U32 :=
  (t[k])[b.toNat]'(b.isLt)

end Sys2Proof.Machine
end

