-- ==== Sys2Proof/Machine/ByteTable.lean ====
section
/-! DEFINITION. The software byte table (42_byte_table.md): BTAB. -/

namespace Sys2Proof.Machine

/-- Row 0: eight LFSR steps from each byte value (R61, first loop). -/
def byteRow0 : Vector U32 256 := tabulate 256 (fun n => zn (BitVec.ofNat 32 n.val) 8)

/-- One folding through row 0: `BT[0][c[7:0]] ^ (c >> 8)` (R61, second loop). -/
def foldByte (c : U32) : U32 := byteRow0[(byteAt c 0).toNat]'((byteAt c 0).isLt) ^^^ (c >>> 8)

/-- Row 0's entry folded `k` times (R61, second loop). -/
def foldTimes (c : U32) : Nat → U32
  | 0 => c
  | k + 1 => foldByte (foldTimes c k)

/-- The table BTAB builds (R61). -/
def byteTable : ByteTable :=
  tabulate 8 (fun k => tabulate 256 (fun n => foldTimes byteRow0[n] k.val))

/-- `BTAB()` (R61). -/
def btab (s : State) : State := setByteTable byteTable s

/-- BTAB (R61). -/
def execBtab (s : State) : Host.Outcome State Fault Refusal := .next (btab s)

end Sys2Proof.Machine
end

