-- ==== Sys2Proof/Machine/Matrix.lean ====
section
/-! DEFINITION. GF(2) matrix algebra (40_gf2_matrix.md): MTIMES and MSQUARE. -/

namespace Sys2Proof.Machine

/-- The contribution of word `i` to `MTIMES(M, vec)`: `M[i]` if `vec[i] == 1` (R53). -/
def selectedWord (m : Matrix) (vec : U32) (i : Fin 32) : U32 :=
  if vec.getLsbD i then m[i] else 0

/-- `MTIMES(M, vec)` (R53). -/
def mtimes (m : Matrix) (vec : U32) : U32 :=
  (List.finRange 32).foldl (fun sum i => sum ^^^ selectedWord m vec i) 0

/-- `MSQUARE(M)` (R54). -/
def msquare (m : Matrix) : Matrix := tabulate 32 (fun n => mtimes m m[n])

/-- One squaring into the other scratch matrix (R54, R56, D25). -/
def squareScratch (s : State) : Except Fault State := do
  let m ← currentMatrix s
  match s.scratch with
  | .odd => .ok (setEven (msquare m) s)
  | .even => .ok (setOdd (msquare m) s)

/-- MTIMES: the word for the current matrix and the operand `vec` (R53). -/
def execMtimes (s : State) : Host.Outcome State Fault Refusal :=
  toOutcome (do let m ← currentMatrix s; .ok (setOut (mtimes m s.micro.vec) s))

/-- MSQUARE: the square of the current matrix, written to the other scratch matrix (R54). -/
def execMsquare (s : State) : Host.Outcome State Fault Refusal :=
  toOutcome (squareScratch s)

end Sys2Proof.Machine
end

