-- ==== Sys2Proof/Machine/ZeroShift.lean ====
section
/-! DEFINITION. The zero-shift operator, the shift tables and their application (41_zero_shift.md): ZOP, ZTAB,
SHIFT. -/

namespace Sys2Proof.Machine

/-- The base operator `ZBASE` (R55). -/
def zbase : Matrix := tabulate 32 (fun n => if n.val = 0 then poly else (1 : U32) <<< (n.val - 1))

/-- `count` squarings, alternating the two scratch matrices (R56). -/
def squareTimes : Nat → State → Except Fault State
  | 0, s => .ok s
  | count + 1, s => (squareScratch s).bind (squareTimes count)

/-- `ZOP(len)` for `len >= 1`: `ZBASE` into `MODD`, then `k + 3` squarings, `k` the largest with `2^k <= len`
(R56). -/
def zop (len : Nat) (s : State) : Except Fault State :=
  squareTimes (Nat.log2 len + 3) (setOdd zbase s)

/-- The table `ZTAB` derives from an operator (R57). -/
def ztabOf (op : Matrix) : ShiftTable :=
  tabulate 4 (fun p => tabulate 256 (fun n => mtimes op (BitVec.ofNat 32 n.val <<< (8 * p.val))))

/-- `ZTAB(OP, which)` with `OP` the current matrix (R57). -/
def ztab (which : TableSel) (s : State) : Except Fault State := do
  let op ← currentMatrix s
  .ok (setShiftTable which (ztabOf op) s)

/-- `SHIFT(which, c)` with `TAB` given (R58). -/
def shiftBy (t : ShiftTable) (c : U32) : U32 :=
  tableAt t 0 (byteAt c 0) ^^^ tableAt t 1 (byteAt c 1) ^^^ tableAt t 2 (byteAt c 2)
    ^^^ tableAt t 3 (byteAt c 3)

/-- ZOP on the operand `len`; `len == 0` is refused (R56, U6, D17). -/
def execZop (s : State) : Host.Outcome State Fault Refusal :=
  if s.micro.len = 0 then .refused .zopOfZero else toOutcome (zop s.micro.len s)

/-- ZTAB (R57). -/
def execZtab (which : TableSel) (s : State) : Host.Outcome State Fault Refusal :=
  toOutcome (ztab which s)

/-- SHIFT of the operand `c` (R58). -/
def execShift (which : TableSel) (s : State) : Host.Outcome State Fault Refusal :=
  toOutcome (do let t ← readShiftTable s which; .ok (setOut (shiftBy t s.micro.vec) s))

end Sys2Proof.Machine
end

