-- ==== Sys2Proof/Machine/Steps.lean ====
section
/-! DEFINITION. The step primitives of both engines: SWB, SWW (43_software_engine.md section 2), HWB, HWW
(44_hardware_engine.md rules R76 to R78), and the two-function backend the engine logic is written against (R76). -/

namespace Sys2Proof.Machine

/-- `SWB(a, b)` (R64). -/
def swb (t : ByteTable) (a : U32) (b : U8) : U32 :=
  tableAt t 0 (byteAt (a ^^^ b.setWidth 32) 0) ^^^ (a >>> 8)

/-- The eight lookups of SWW: byte `j` of the word indexes row `7 - j` (R65). -/
def swwLookups (t : ByteTable) (x : U64) : U32 :=
  tableAt t 7 (byteAt x 0) ^^^ tableAt t 6 (byteAt x 1) ^^^ tableAt t 5 (byteAt x 2)
    ^^^ tableAt t 4 (byteAt x 3) ^^^ tableAt t 3 (byteAt x 4) ^^^ tableAt t 2 (byteAt x 5)
    ^^^ tableAt t 1 (byteAt x 6) ^^^ tableAt t 0 (byteAt x 7)

/-- `SWW(a, w)` (R65, D18). -/
def sww (t : ByteTable) (a : U32) (w : U64) : U32 := swwLookups t (a.setWidth 64 ^^^ w)

/-- `HWB(a, b)`, bit-serial (R77). -/
def hwb (a : U32) (b : U8) : U32 := zn (a ^^^ b.setWidth 32) 8

/-- One bit-serial step of HWW's 64-bit register (R78). -/
def wideStep (x : U64) : U64 := (x >>> 1) ^^^ (if x.getLsbD 0 then poly.setWidth 64 else 0)

/-- `n` bit-serial steps of HWW's 64-bit register (R78). -/
def wideSteps (x : U64) : Nat → U64
  | 0 => x
  | n + 1 => wideStep (wideSteps x n)

/-- `HWW(a, w)`, bit-serial (R78). -/
def hww (a : U32) (w : U64) : U32 := (wideSteps (a.setWidth 64 ^^^ w) 64).setWidth 32

/-- The checksum unit's result, where the unit is present (R20, D12). -/
def whereUnitPresent (s : State) (v : U32) : Except Fault U32 :=
  if s.hwCap then .ok v else .error .checksumUnitAbsent

/-- `advance_by_byte` of an engine (R76). -/
def byteStep (e : Engine) (s : State) (a : U32) (b : U8) : Except Fault U32 :=
  match e with
  | .software => do let t ← readByteTable s; .ok (swb t a b)
  | .hardware => whereUnitPresent s (hwb a b)

/-- `advance_by_word` of an engine (R76). -/
def wordStep (e : Engine) (s : State) (a : U32) (w : U64) : Except Fault U32 :=
  match e with
  | .software => do let t ← readByteTable s; .ok (sww t a w)
  | .hardware => whereUnitPresent s (hww a w)

end Sys2Proof.Machine
end

