-- ==== Sys2Proof/Machine/Lanes.lean ====
section
/-! DEFINITION. The single-lane path and the three-way groups, written once for both engines (43_software_engine.md
rules R67, R69 to R71; 44_hardware_engine.md rules R80 to R82). -/

namespace Sys2Proof.Machine

/-- One byte step: `ACC0 <- step(ACC0, MemRead(NEXT, 1)); NEXT <- NEXT + 1; LEN <- LEN - 1` (R67, R80). -/
def consumeByte (e : Engine) (s : State) : Except Fault State := do
  let b ← nextByte s
  let v ← byteStep e s s.acc0 b
  advance 1 (setAcc0 v s)

/-- One word step: `ACC0 <- step(ACC0, MemRead(NEXT, 8)); NEXT <- NEXT + 8; LEN <- LEN - 8` (R67, R80). -/
def consumeWord (e : Engine) (s : State) : Except Fault State := do
  let w ← nextWord s
  let v ← wordStep e s s.acc0 w
  advance 8 (setAcc0 v s)

/-- `while cond: body`, at most `count` times. Every loop of the spec lowers `LEN` (R123), so a count of `LEN` is no
limit. -/
def loopWhile (cond : State → Bool) (body : State → Except Fault State) : Nat → State → Except Fault State
  | 0, s => .ok s
  | count + 1, s => if cond s then (body s).bind (loopWhile cond body count) else .ok s

/-- The single-lane path, SW1 and HW1: leading bytes, words, trailing bytes (R67, R80). -/
def singleLane (e : Engine) (s : State) : Except Fault State := do
  let s1 ← loopWhile prologueGoesOn (consumeByte e) s.len s
  let s2 ← loopWhile wordFits (consumeWord e) s1.len s1
  loopWhile bytesLeft (consumeByte e) s2.len s2

/-- Iteration `i` of a group with blocks of `block` bytes: lane 0, lane 1, lane 2 (R70, R71, R81, R82, D8). -/
def laneIteration (e : Engine) (block i : Nat) (s : State) : Except Fault State := do
  let w0 ← memRead8 s (s.next + 8 * i)
  let a0 ← wordStep e s s.acc0 w0
  let w1 ← memRead8 s (s.next + block + 8 * i)
  let a1 ← wordStep e s s.acc1 w1
  let w2 ← memRead8 s (s.next + 2 * block + 8 * i)
  let a2 ← wordStep e s s.acc2 w2
  .ok (setAcc2 a2 (setAcc1 a1 (setAcc0 a0 s)))

/-- The iterations `0 .. count - 1` of a group (R70). -/
def laneLoop (e : Engine) (block : Nat) : Nat → State → Except Fault State
  | 0, s => .ok s
  | count + 1, s => (laneLoop e block count s).bind (laneIteration e block count)

/-- `COMBINE(which)` (R69). -/
def combine (which : TableSel) (s : State) : Except Fault State := do
  let t ← readShiftTable s which
  .ok (setAcc0 (shiftBy t (shiftBy t s.acc0 ^^^ s.acc1) ^^^ s.acc2) s)

/-- A three-way group: SW3S, SW3L, HW3S, HW3L (R70, R71, R81, R82), for `LEN >= 3*BLOCK`. -/
def group (e : Engine) (which : TableSel) (s : State) : Except Fault State :=
  if groupFits which s then do
    let s1 ← laneLoop e (blockOf which) (blockOf which / 8) (setAcc2 0 (setAcc1 0 s))
    let s2 ← combine which s1
    advance (3 * blockOf which) s2
  else .error .groupPastEnd

end Sys2Proof.Machine
end

