-- ==== Sys2Proof/Machine/Dispatcher.lean ====
section
/-! DEFINITION. The capability dispatcher (45_dispatch_and_entry.md rules R85, R86): DETECT, and the table
construction of INIT (rules R87, R88). -/

namespace Sys2Proof.Machine

/-- `BIND <- Detecting` (R86). -/
def startDetect (s : State) : State := setBind .detecting s

/-- `BIND <- BoundHardware` if `HW_CAP == 1`, else `BIND <- BoundSoftware` (R86). -/
def finishDetect (s : State) : State :=
  setBind (if s.hwCap then .boundHardware else .boundSoftware) s

/-- `DETECT()` (R86), only ever started with `BIND == Uninitialized`. -/
def detect (s : State) : Except Fault State :=
  match s.bind with
  | .uninitialized => .ok (finishDetect (startDetect s))
  | .detecting => .error .detectStartedTwice
  | .boundSoftware => .error .detectStartedTwice
  | .boundHardware => .error .detectStartedTwice

/-- The body of guard INIT: BTAB, `ZTAB(ZOP(256), S)`, `ZTAB(ZOP(8192), L)`, `INIT_DONE <- 1` (R87, R118). -/
def buildTables (s : State) : Except Fault State := do
  let s1 ← zop shortBlock (btab s)
  let s2 ← ztab .short s1
  let s3 ← zop longBlock s2
  let s4 ← ztab .long s3
  .ok (setInitDone s4)

/-- DETECT (R86). -/
def execDetect (s : State) : Host.Outcome State Fault Refusal := toOutcome (detect s)

end Sys2Proof.Machine
end

