-- ==== Sys2Proof/Machine/Sequencer.lean ====
section
/-! DEFINITION. The sequencer: the arrows of 10_state.md rule R24, the checks at the head of a command
(60_exceptions.md rule R106), the guards (45_dispatch_and_entry.md rule R88), and a command run to its response. -/

namespace Sys2Proof.Machine

/-- What follows guard DETECT: INIT responds, a checksum command loads its operands (R72, R83, R87, R89). -/
def afterDetectGuard (c : HostCmd) (s : State) : State :=
  match c with
  | .init => respond .ok 0 s
  | .crc32c | .crcSw | .crcHw => loadOperands s

/-- What follows guard INIT: guard DETECT for INIT and CRC32C, none for CRC_SW and CRC_HW (R88). -/
def afterInitGuard (c : HostCmd) (s : State) : State :=
  match c with
  | .init | .crc32c => if s.bind = .uninitialized then enterPhase .detect s else afterDetectGuard c s
  | .crcSw | .crcHw => afterDetectGuard c s

/-- The head of a command: the `HW_CAP` test of CRC_HW, then guard INIT, then the rest (R106, R109, R24). -/
def beginCommand (c : HostCmd) (s : State) : State :=
  if c = .crcHw ∧ s.hwCap = false then respond .unavailable 0 s
  else if s.initDone then afterInitGuard c s
  else enterPhase .init s

/-- The engine a checksum command runs: CRC32C the one `BIND` names (R72, R83, R89). -/
def engineFor (c : HostCmd) (s : State) : Except Fault Engine :=
  match c, s.bind with
  | .crcSw, _ => .ok .software
  | .crcHw, _ => .ok .hardware
  | .crc32c, .boundHardware => .ok .hardware
  | .crc32c, .boundSoftware => .ok .software
  | .crc32c, .detecting => .error .noSuchPhase
  | .crc32c, .uninitialized => .error .noSuchPhase
  | .init, _ => .error .noSuchPhase

/-- One arrow out of phase `DETECT`: to `Detecting`, then to the bound state and on (R85, R86, R24). -/
def detectArrow (c : HostCmd) (s : State) : State :=
  match s.bind with
  | .uninitialized => startDetect s
  | .detecting => afterDetectGuard c (finishDetect s)
  | .boundSoftware | .boundHardware => afterDetectGuard c s

/-- `respond(OK, ACC0 ^ 0xFFFFFFFF)` (R63). -/
def respondChecksum (s : State) : State := respond .ok (s.acc0 ^^^ allOnes) s

/-- One arrow of R24 for a command in progress. -/
def arrow (c : HostCmd) (s : State) : Except Fault State :=
  match s.ph with
  | .idle => .ok s
  | .init => (buildTables s).map (afterInitGuard c)
  | .detect => .ok (detectArrow c s)
  | .p => do
    let e ← engineFor c s
    if prologueGoesOn s then consumeByte e s else .ok (enterPhase .l s)
  | .l => do
    let e ← engineFor c s
    if groupFits .long s then group e .long s else .ok (enterPhase .s s)
  | .s => do
    let e ← engineFor c s
    if groupFits .short s then group e .short s else .ok (enterPhase .w s)
  | .w => do
    let e ← engineFor c s
    if wordFits s then consumeWord e s else .ok (enterPhase .t s)
  | .t => do
    let e ← engineFor c s
    if bytesLeft s then consumeByte e s else .ok (respondChecksum s)

/-- At most `count` arrows, until `PH == IDLE`. -/
def runArrows (c : HostCmd) : Nat → State → Except Fault State
  | 0, s => .ok s
  | count + 1, s => if s.ph = .idle then .ok s else (arrow c s).bind (runArrows c count)

/-- More arrows than a command has: each either changes the phase (at most nine times) or consumes a byte at least
(R123). -/
def arrowBound (s : State) : Nat := s.n + 10

/-- A host command from its head to its response (R46, D1). -/
def runCommand (c : HostCmd) (s : State) : Except Fault State :=
  runArrows c (arrowBound s) (beginCommand c s)

end Sys2Proof.Machine
end

