-- ==== Sys2Proof/Machine/Commands.lean ====
section
/-! DEFINITION. The four host commands: INIT and CRC32C (45_dispatch_and_entry.md), CRC_SW (43_software_engine.md rule
R72), CRC_HW (44_hardware_engine.md rule R83). -/

namespace Sys2Proof.Machine

/-- INIT (R87). -/
def execInit (s : State) : Host.Outcome State Fault Refusal := toOutcome (runCommand .init s)

/-- CRC32C (R89). -/
def execCrc32c (s : State) : Host.Outcome State Fault Refusal := toOutcome (runCommand .crc32c s)

/-- CRC_SW (R72). -/
def execCrcSw (s : State) : Host.Outcome State Fault Refusal := toOutcome (runCommand .crcSw s)

/-- CRC_HW (R83). -/
def execCrcHw (s : State) : Host.Outcome State Fault Refusal := toOutcome (runCommand .crcHw s)

end Sys2Proof.Machine
end

