-- ==== Sys2Proof/Machine/Hardware.lean ====
section
/-! DEFINITION. The hardware engine's micro-operations (44_hardware_engine.md): HWB, HWW, HW1, HW3S, HW3L. -/

namespace Sys2Proof.Machine

/-- HWB of the operands `a` and `b` (R77). -/
def execHwb (s : State) : Host.Outcome State Fault Refusal :=
  toOutcome (do let v ← byteStep .hardware s s.micro.vec s.micro.byte; .ok (setOut v s))

/-- HWW of the operands `a` and `w` (R78). -/
def execHww (s : State) : Host.Outcome State Fault Refusal :=
  toOutcome (do let v ← wordStep .hardware s s.micro.vec s.micro.data; .ok (setOut v s))

/-- HW1 (R80). -/
def execHw1 (s : State) : Host.Outcome State Fault Refusal :=
  toOutcome (singleLane .hardware s)

/-- HW3S (R81). -/
def execHw3s (s : State) : Host.Outcome State Fault Refusal :=
  toOutcome (group .hardware .short s)

/-- HW3L (R82). -/
def execHw3l (s : State) : Host.Outcome State Fault Refusal :=
  toOutcome (group .hardware .long s)

end Sys2Proof.Machine
end

