-- ==== Sys2Proof/Machine/Software.lean ====
section
/-! DEFINITION. The software engine's micro-operations (43_software_engine.md): SWB, SWW, SW1, COMBINE, SW3S, SW3L. -/

namespace Sys2Proof.Machine

/-- SWB of the operands `a` and `b` (R64). -/
def execSwb (s : State) : Host.Outcome State Fault Refusal :=
  toOutcome (do let v ← byteStep .software s s.micro.vec s.micro.byte; .ok (setOut v s))

/-- SWW of the operands `a` and `w` (R65). -/
def execSww (s : State) : Host.Outcome State Fault Refusal :=
  toOutcome (do let v ← wordStep .software s s.micro.vec s.micro.data; .ok (setOut v s))

/-- SW1 (R67). -/
def execSw1 (s : State) : Host.Outcome State Fault Refusal :=
  toOutcome (singleLane .software s)

/-- COMBINE (R69). -/
def execCombine (which : TableSel) (s : State) : Host.Outcome State Fault Refusal :=
  toOutcome (combine which s)

/-- SW3S (R70). -/
def execSw3s (s : State) : Host.Outcome State Fault Refusal :=
  toOutcome (group .software .short s)

/-- SW3L (R71). -/
def execSw3l (s : State) : Host.Outcome State Fault Refusal :=
  toOutcome (group .software .long s)

end Sys2Proof.Machine
end

