-- ==== Sys2Proof/Machine/Dispatch.lean ====
section
/-! DEFINITION. One arm per operation of 30_encoding.md rule R43. -/

namespace Sys2Proof.Machine

def exec (i : Instr) (s : State) : Host.Outcome State Fault Refusal :=
  match i with
  | .init => Sys2Proof.Machine.execInit s
  | .crc32c => Sys2Proof.Machine.execCrc32c s
  | .crcSw => Sys2Proof.Machine.execCrcSw s
  | .crcHw => Sys2Proof.Machine.execCrcHw s
  | .mtimes => Sys2Proof.Machine.execMtimes s
  | .msquare => Sys2Proof.Machine.execMsquare s
  | .zop => Sys2Proof.Machine.execZop s
  | .ztab which => Sys2Proof.Machine.execZtab which s
  | .shift which => Sys2Proof.Machine.execShift which s
  | .combine which => Sys2Proof.Machine.execCombine which s
  | .btab => Sys2Proof.Machine.execBtab s
  | .swb => Sys2Proof.Machine.execSwb s
  | .sww => Sys2Proof.Machine.execSww s
  | .sw1 => Sys2Proof.Machine.execSw1 s
  | .sw3s => Sys2Proof.Machine.execSw3s s
  | .sw3l => Sys2Proof.Machine.execSw3l s
  | .hwb => Sys2Proof.Machine.execHwb s
  | .hww => Sys2Proof.Machine.execHww s
  | .hw1 => Sys2Proof.Machine.execHw1 s
  | .hw3s => Sys2Proof.Machine.execHw3s s
  | .hw3l => Sys2Proof.Machine.execHw3l s
  | .detect => Sys2Proof.Machine.execDetect s

end Sys2Proof.Machine
end

