-- ==== Sys2Proof/WellFormed.lean ====
section
/-! DEFINITION. The fields of a command word (30_encoding.md rule R44) and the checks R44 and R48 put on them. An
`Instr` carries nothing that could be ill-formed; a raw word does. -/

namespace Sys2Proof

/-- A 32-bit command word cut into the fields of format CMD (R44). -/
structure Fields where
  /-- bits [7:0] -/
  op : BitVec 8
  /-- bit [8] -/
  t : BitVec 1
  /-- bits [31:9] -/
  reserved : BitVec 23
  deriving DecidableEq, Repr

/-- The fields of a word (R44). -/
def Fields.ofWord (w : U32) : Fields :=
  ⟨w.extractLsb' 0 8, w.extractLsb' 8 1, w.extractLsb' 9 23⟩

/-- The operation codes of R47 that have no `T` bit. -/
def Fields.plainOps : List (BitVec 8) :=
  [0x01, 0x02, 0x03, 0x04, 0x10, 0x11, 0x12, 0x18, 0x20, 0x21, 0x22, 0x23, 0x24,
    0x30, 0x31, 0x32, 0x33, 0x34, 0x40]

/-- The operation codes of R47 that have a `T` bit: ZTAB, SHIFT, COMBINE. -/
def Fields.selectOps : List (BitVec 8) := [0x13, 0x14, 0x15]

/-- `OP` is one of the codes of R47. -/
def Fields.opAssigned (f : Fields) : Bool :=
  f.op ∈ Fields.plainOps || f.op ∈ Fields.selectOps

/-- `T` must be 0 in every operation but ZTAB, SHIFT and COMBINE (R44). -/
def Fields.tAllowed (f : Fields) : Bool :=
  f.t == 0 || f.op ∈ Fields.selectOps

/-- Bits [31:9] must be 0 (R44). -/
def Fields.reservedZero (f : Fields) : Bool :=
  f.reserved == 0

/-- The word names an operation of R47. -/
def Fields.wellFormed (f : Fields) : Bool :=
  f.opAssigned && f.tAllowed && f.reservedZero

/-- The words the host may write: `CW[31:8] == 0` and `CW[7:0]` one of 0x01 to 0x04 (R48). -/
def Fields.hostLegal (f : Fields) : Bool :=
  f.op ∈ ([0x01, 0x02, 0x03, 0x04] : List (BitVec 8)) && f.t == 0 && f.reserved == 0

end Sys2Proof
end

