-- ==== Sys2Proof/Decode.lean ====
section
/-! DEFINITION. The decoder and the encoder of command words (30_encoding.md rules R44, R47, R48, R49;
opcode_table.json). -/

namespace Sys2Proof

/-- Why a word names no operation. -/
inductive DecodeError where
  /-- A bit of [31:9] is set (R44). -/
  | reservedBits
  /-- `T` is set in an operation that has no table select (R44). -/
  | tBit
  /-- `OP` is none of the codes of R47. -/
  | unassignedOp
  deriving DecidableEq, Repr

/-- One row of opcode_table.json: its mask, its match and the operation, which may take the `T` bit. -/
structure OpcodeRow where
  mask : U32
  pattern : U32
  build : TableSel → Instr

/-- A row all of whose 32 bits are fixed. -/
def plainRow (pattern : U32) (i : Instr) : OpcodeRow := ⟨0xFFFFFFFF, pattern, fun _ => i⟩

/-- A row with the `T` bit free. -/
def selectRow (pattern : U32) (i : TableSel → Instr) : OpcodeRow := ⟨0xFFFFFEFF, pattern, i⟩

/-- The host commands (R47). -/
def hostRows : List OpcodeRow :=
  [plainRow 0x01 .init, plainRow 0x02 .crc32c, plainRow 0x03 .crcSw, plainRow 0x04 .crcHw]

/-- The matrix and table operations (R47). -/
def tableRows : List OpcodeRow :=
  [plainRow 0x10 .mtimes, plainRow 0x11 .msquare, plainRow 0x12 .zop, selectRow 0x13 .ztab,
    selectRow 0x14 .shift, selectRow 0x15 .combine, plainRow 0x18 .btab]

/-- The software steps (R47). -/
def softwareRows : List OpcodeRow :=
  [plainRow 0x20 .swb, plainRow 0x21 .sww, plainRow 0x22 .sw1, plainRow 0x23 .sw3s,
    plainRow 0x24 .sw3l]

/-- The hardware steps and DETECT (R47). -/
def hardwareRows : List OpcodeRow :=
  [plainRow 0x30 .hwb, plainRow 0x31 .hww, plainRow 0x32 .hw1, plainRow 0x33 .hw3s,
    plainRow 0x34 .hw3l, plainRow 0x40 .detect]

/-- opcode_table.json, 22 rows. -/
def opcodeRows : List OpcodeRow := hostRows ++ tableRows ++ softwareRows ++ hardwareRows

/-- The table that bit `T` selects: 0 short, 1 long (R44). -/
def tableSelOf (w : U32) : TableSel := if w.getLsbD 8 then .long else .short

/-- The name of the first check of R44 that a word without a row fails. -/
def rejectReason (w : U32) : DecodeError :=
  if (Fields.ofWord w).reservedZero then
    if (Fields.ofWord w).opAssigned then .tBit else .unassignedOp
  else .reservedBits

/-- The decoder: total on 32-bit words; every command word decodes alone (R49). -/
def decode (w : U32) : Except DecodeError Instr :=
  match opcodeRows.find? (fun r => w &&& r.mask == r.pattern) with
  | some r => .ok (r.build (tableSelOf w))
  | none => .error (rejectReason w)

/-- The operation code of an operation, `CW[7:0]` (R47). -/
def Instr.op : Instr → BitVec 8
  | .init => 0x01
  | .crc32c => 0x02
  | .crcSw => 0x03
  | .crcHw => 0x04
  | .mtimes => 0x10
  | .msquare => 0x11
  | .zop => 0x12
  | .ztab _ => 0x13
  | .shift _ => 0x14
  | .combine _ => 0x15
  | .btab => 0x18
  | .swb => 0x20
  | .sww => 0x21
  | .sw1 => 0x22
  | .sw3s => 0x23
  | .sw3l => 0x24
  | .hwb => 0x30
  | .hww => 0x31
  | .hw1 => 0x32
  | .hw3s => 0x33
  | .hw3l => 0x34
  | .detect => 0x40

/-- `T` as a bit: 0 short, 1 long (R44). -/
def tBitOf : TableSel → BitVec 1
  | .short => 0
  | .long => 1

/-- The `T` bit of an operation, 0 where it has none (R44). -/
def Instr.t : Instr → BitVec 1
  | .ztab which => tBitOf which
  | .shift which => tBitOf which
  | .combine which => tBitOf which
  | .init | .crc32c | .crcSw | .crcHw | .mtimes | .msquare | .zop | .btab | .swb | .sww | .sw1 | .sw3s
  | .sw3l | .hwb | .hww | .hw1 | .hw3s | .hw3l | .detect => 0

/-- The encoder: `OP` in [7:0], `T` in [8], zeros in [31:9] (R44). -/
def encode (i : Instr) : U32 := (0 : BitVec 23) ++ (i.t ++ i.op)

/-- The checks of R44 hold of the operation's word. -/
def Instr.wellFormed (i : Instr) : Bool := (Fields.ofWord (encode i)).wellFormed

/-- The decoder asked with a word given as a number of `nbits` bits, the bits above them zero. -/
def decodeTableWord (nbits w : Nat) : Option Instr :=
  match decode (BitVec.ofNat 32 (w % 2 ^ nbits)) with
  | .ok i => some i
  | .error _ => none

end Sys2Proof
end

