-- ==== Sys2Proof/Machine/Fetch.lean ====
section
/-! DEFINITION. What the sequencer does next. There is no instruction memory and no program counter (10_state.md rule
R23, 20_memory.md rule R42): a command word arrives in `CW`, a micro-operation word in the sequencer's slot
(entry 4). -/

namespace Sys2Proof.Machine

/-- What the sequencer takes up in a state. -/
inductive Fetched where
  /-- the micro-operation in the slot -/
  | micro (i : Instr)
  /-- the slot holds a word that is no micro-operation -/
  | badSlot
  /-- `PH == IDLE` and a legal command word was written -/
  | command (c : HostCmd)
  /-- `PH == IDLE` and a word that R48 does not admit was written -/
  | illegal
  /-- `PH == IDLE` and no command: the engine waits (R115) -/
  | waiting
  /-- a command is in progress -/
  | running (c : HostCmd)
  /-- a phase without a command in `CW` -/
  | lost
  deriving DecidableEq, Repr

/-- The host command an operation is, if it is one (R43). -/
def hostCmdOf : Instr → Option HostCmd
  | .init => some .init
  | .crc32c => some .crc32c
  | .crcSw => some .crcSw
  | .crcHw => some .crcHw
  | .mtimes | .msquare | .zop | .ztab _ | .shift _ | .combine _ | .btab | .swb | .sww | .sw1 | .sw3s
  | .sw3l | .hwb | .hww | .hw1 | .hw3s | .hw3l | .detect => none

/-- The operation a host command is (R43). -/
def instrOf : HostCmd → Instr
  | .init => .init
  | .crc32c => .crc32c
  | .crcSw => .crcSw
  | .crcHw => .crcHw

/-- The host command a word written to `CW` issues; none for an illegal word, micro-operation codes among them
(R48). -/
def hostWord (w : U32) : Option HostCmd :=
  match decode w with
  | .ok i => hostCmdOf i
  | .error _ => none

/-- The micro-operation a word in the slot names (R47). -/
def microWord (w : U32) : Option Instr :=
  match decode w with
  | .ok i => if hostCmdOf i = none then some i else none
  | .error _ => none

/-- What the sequencer takes up: the slot first, then the command in progress or the one in `CW`. -/
def fetch (s : State) : Fetched :=
  match s.micro.slot with
  | some w =>
    match microWord w with
    | some i => .micro i
    | none => .badSlot
  | none =>
    if s.ph = .idle then
      if s.cwPending then
        match hostWord s.cw with
        | some c => .command c
        | none => .illegal
      else .waiting
    else
      match hostWord s.cw with
      | some c => .running c
      | none => .lost

/-- A word put where the sequencer takes up its next operation: a micro-operation into the slot, every other word
into `CW` as the host writes it in `IDLE` (R45, R48; entry 8). -/
def placeWord (w : U32) (s : State) : State :=
  match microWord w with
  | some _ => { s with micro := { s.micro with slot := some w } }
  | none => { s with cw := w, cwPending := true, ph := .idle, micro := { s.micro with slot := none } }

end Sys2Proof.Machine
end

