-- ==== Sys2Proof/Machine/Step.lean ====
section
/-! DEFINITION. One step of the engine. In `IDLE` a command is one transaction (92_eei_decisions.md D1): the step runs
it to its response. With a command in progress a step is one arrow of 10_state.md rule R24. -/

namespace Sys2Proof.Machine

/-- One step. A state that waits for a command stays as it is (R115). -/
def step (s : State) : Host.Outcome State Fault Refusal :=
  match fetch s with
  | .micro i => exec i (takeMicro s)
  | .badSlot => .refused .notAMicroOperation
  | .command c => exec (instrOf c) (takeCommand s)
  | .illegal => .next (respondIllegal (takeCommand s))
  | .waiting => .next s
  | .running c => toOutcome (arrow c s)
  | .lost => .fault .noSuchPhase

/-- `s` with the word `w` of `nbits` bits stored where `step` fetches its next operation. -/
def State.withFetchWord (s : State) (nbits w : Nat) : State :=
  placeWord (BitVec.ofNat 32 (w % 2 ^ nbits)) s

end Sys2Proof.Machine
end

