-- ==== Sys2Proof/Machine/HostPort.lean ====
section
/-! DEFINITION. The host's side of the port: the register map (10_state.md rule R19), the moves the host has
(60_exceptions.md rule R112), the program lines and pseudo-instructions (30_encoding.md rules R50, R51), and the reset
event (70_reset_and_hazards.md rule R115). None of these is a step of the engine. -/

namespace Sys2Proof.Machine

/-- `STATUS`, a view: [0] `INIT_DONE`, [2:1] `BIND`, [4:3] `ST`, [5] `HW_CAP`, [31:6] zero (R19). -/
def statusWord (s : State) : U32 :=
  (0 : BitVec 26) ++ (BitVec.ofBool s.hwCap ++ (s.st.code ++ (s.bind.code ++ BitVec.ofBool s.initDone)))

/-- The host has a move only while no command is in progress or pending (R112, D16). -/
def hostMayMove (s : State) : Bool := decide (s.ph = .idle) && !s.cwPending

/-- What the host reads from a register by its number, as a number (R19, R112): `RES` (4) and `STATUS` (5).
Registers 0 to 3 are for writing only. Before the first response `RES` gives a free value (U5, entry 5). -/
def hostRead (number : Nat) (s : State) : Option Nat :=
  if hostMayMove s then
    match number with
    | 4 => some (if s.resValid then s.res else Config.resBeforeResponse).toNat
    | 5 => some (statusWord s).toNat
    | _ => none
  else none

/-- The host writes a number to a register by its own (R19, R45): `A`, `N`, `S`, and `CW`, which issues the command.
Bits above a register's width are ignored (R19). Registers 4 and 5 are for reading only. -/
def hostWrite (number : Nat) (v : Nat) (s : State) : Option State :=
  if hostMayMove s then
    match number with
    | 0 => some { s with cw := BitVec.ofNat 32 v, cwPending := true }
    | 1 => some { s with a := v % 2 ^ s.aw }
    | 2 => some { s with n := v % 2 ^ s.aw }
    | 3 => some { s with seed := BitVec.ofNat 32 v }
    | _ => none
  else none

/-- The host, who owns the buffer, sets the byte at an `AW`-bit address while no command runs (R29, R112, R122). -/
def hostPoke (addr : Nat) (b : U8) (s : State) : Option State :=
  if hostMayMove s && decide (addr < 2 ^ s.aw) then some { s with mem := Memory.write s.mem addr b } else none

/-- The reset event (R115): every element at the value of R25; the host's memory and the parameters `HW_CAP`
and `AW` are not the engine's (R6, R22, R116). -/
def resetEvent (s : State) : State := State.resetWith s.hwCap s.aw s.mem

/-- The seed of a program line: a number, or the word `RES` (R50). -/
inductive LineSeed where
  | lit (v : U32)
  | res
  deriving DecidableEq, Repr

/-- A line of a host program (R50), with the two pseudo-instructions (R51). `addr` and `len` are `uAW` numbers. -/
inductive Line where
  | init
  | crc32c (addr len : Nat) (seed : LineSeed)
  | crcSw (addr len : Nat) (seed : LineSeed)
  | crcHw (addr len : Nat) (seed : LineSeed)
  | crc (addr len : Nat)
  | crcNext (addr len : Nat)
  deriving DecidableEq, Repr

/-- `CRC addr, len` is `CRC32C addr, len, 0`; `CRCNEXT addr, len` is `CRC32C addr, len, RES` (R51). -/
def Line.expand : Line → Line
  | .crc addr len => .crc32c addr len (.lit 0)
  | .crcNext addr len => .crc32c addr len .res
  | .init => .init
  | .crc32c addr len seed => .crc32c addr len seed
  | .crcSw addr len seed => .crcSw addr len seed
  | .crcHw addr len seed => .crcHw addr len seed

/-- The value of a line's seed when the line starts (R50). -/
def lineSeed (s : State) : LineSeed → Option Nat
  | .lit v => some v.toNat
  | .res => hostRead 4 s

/-- `A <- addr; N <- len; S <- seed; CW <- code` (R50). -/
def issueChecksum (code : U32) (addr len : Nat) (seed : LineSeed) (s : State) : Option State := do
  let v ← lineSeed s seed
  let s1 ← hostWrite 1 addr s
  let s2 ← hostWrite 2 len s1
  let s3 ← hostWrite 3 v s2
  hostWrite 0 code.toNat s3

/-- The register writes a line stands for (R50, R51). -/
def issueLine (line : Line) (s : State) : Option State :=
  match line.expand with
  | .init => hostWrite 0 (encode .init).toNat s
  | .crc32c addr len seed => issueChecksum (encode .crc32c) addr len seed s
  | .crcSw addr len seed => issueChecksum (encode .crcSw) addr len seed s
  | .crcHw addr len seed => issueChecksum (encode .crcHw) addr len seed s
  | .crc addr len => issueChecksum (encode .crc32c) addr len (.lit 0) s
  | .crcNext addr len => issueChecksum (encode .crc32c) addr len .res s

end Sys2Proof.Machine
end

