-- ==== Sys2Proof/Machine/Oracle.lean ====
section
/-! DEFINITION. The byte oracle (43_software_engine.md rule R68) and the bytes of a buffer, the terms in which the
results of commands are stated. -/

namespace Sys2Proof.Machine

/-- `Raw(a, D)`: the byte steps over a byte sequence (R68). -/
def raw (a : U32) : List U8 → U32
  | [] => a
  | d :: ds => raw (swb byteTable a d) ds

/-- `ByteCRC(D, s)` (R68). -/
def byteCrc (d : List U8) (seed : U32) : U32 := raw (seed ^^^ allOnes) d ^^^ allOnes

/-- The `count` bytes from an address on; none unless each of them is one the host's memory admits and lies below
`2^AW`: the precondition of R33. -/
def bufferBytes (s : State) (addr : Nat) : Nat → Option (List U8)
  | 0 => some []
  | count + 1 =>
    match memRead1 s addr, bufferBytes s (addr + 1) count with
    | .ok b, some bs => some (b :: bs)
    | _, _ => none

end Sys2Proof.Machine
end

