-- ==== Sys2Proof/Safety.lean ====
section
/-! DEFINITION. What counts as a sound state and as a completed command, in the terms the claims use. -/

namespace Sys2Proof.Machine

/-- The byte table in closed form: `BT[k][b] = Zn(b, 8*(k+1))` (R12, R62). -/
def closedByteTable : ByteTable :=
  tabulate 8 (fun k => tabulate 256 (fun b => zn (BitVec.ofNat 32 b.val) (8 * (k.val + 1))))

/-- A shift table in closed form: `Zn(n << (8*p), 8*256)` or `Zn(n << (8*p), 8*8192)` (R13, R59). -/
def closedShiftTable (which : TableSel) : ShiftTable :=
  tabulate 4 (fun p => tabulate 256 (fun n =>
    zn (BitVec.ofNat 32 n.val <<< (8 * p.val)) (8 * blockOf which)))

/-- `INIT_DONE == 1` means that `BT`, `ZS` and `ZL` hold their fixed contents (R16). -/
def TablesBuilt (s : State) : Prop :=
  s.initDone = true →
    s.bt = some closedByteTable ∧ s.zs = some (closedShiftTable .short) ∧ s.zl = some (closedShiftTable .long)

/-- A bound state agrees with `HW_CAP` (R85, R86). -/
def BindFits (s : State) : Prop :=
  (s.bind = .boundHardware → s.hwCap = true) ∧ (s.bind = .boundSoftware → s.hwCap = false)

/-- The state of an engine that is in the middle of a checksum command: the tables are built, and the checksum unit
is there for the hardware engine (R20, R88). -/
def EngineReady (e : Engine) (s : State) : Prop :=
  s.initDone = true ∧ TablesBuilt s ∧ (e = .hardware → s.hwCap = true)

/-- Every address reads in `t` as it read in `s`. -/
def SameBytes (s t : State) : Prop :=
  ∀ addr, Memory.read t.mem addr = Memory.read s.mem addr

/-- What the engine never writes: the operand registers, `CW`, the parameters `HW_CAP` and `AW`, buffer memory (R6,
R17, R20, R36). -/
def HostSideSame (s t : State) : Prop :=
  t.cw = s.cw ∧ t.a = s.a ∧ t.n = s.n ∧ t.seed = s.seed ∧ t.hwCap = s.hwCap ∧ t.aw = s.aw ∧ SameBytes s t

/-- What a claim may speak of in the state where a command is over (R119): the state with the elements that are dead
once the response is written (`ACC0`, `ACC1`, `ACC2`, `NEXT`, `LEN`, `MEVEN`, `MODD` and the model's `scratch`; R26,
D19) forgotten. -/
def finalState (s : State) : State :=
  { s with acc0 := 0, acc1 := 0, acc2 := 0, next := 0, len := 0, meven := none, modd := none, scratch := .odd }

/-- The outcome of a command as far as a claim may speak of it (R119). A command that stops is not over. -/
def finalOutcome : Host.Outcome State Fault Refusal → Host.Outcome State Fault Refusal
  | .next s => .next (finalState s)
  | .fault f => .fault f
  | .refused r => .refused r

/-- A command has responded (R46, R119) with the tables built, and what the host owns is as it was. -/
def Responded (s t : State) : Prop :=
  t.ph = .idle ∧ t.resValid = true ∧ t.initDone = true ∧ TablesBuilt t ∧ HostSideSame s t ∧
    t.cwPending = s.cwPending ∧ t.micro = s.micro

/-- What `BIND` holds after guard DETECT (R86, R88). -/
def boundAfter (s : State) : Binding :=
  if s.bind = .uninitialized then (if s.hwCap then .boundHardware else .boundSoftware) else s.bind

/-- Exactly `count` arrows of R24. -/
def arrows (c : HostCmd) : Nat → State → Except Fault State
  | 0, s => .ok s
  | count + 1, s => (arrow c s).bind (arrows c count)

/-- In the phases of a checksum command's body the guards of the command are behind it (R88), `NEXT` and `LEN` are
`uAW` numbers (R10, R11), and the bytes still to come end where the operands say (R11). -/
structure BodyFits (c : HostCmd) (s : State) : Prop where
  initDone : s.initDone = true
  notInit : c ≠ .init
  bound : c = .crc32c → s.bind = .boundHardware ∨ s.bind = .boundSoftware
  unit : c = .crcHw → s.hwCap = true
  nextFits : s.next < 2 ^ s.aw
  lenFits : s.len < 2 ^ s.aw
  rest : s.len ≠ 0 → s.next + s.len = s.a + s.n

/-- What R24 says of a phase that a command in progress is in. -/
def PhaseFits (c : HostCmd) (s : State) : Prop :=
  match s.ph with
  | .idle => True
  | .init => s.initDone = false ∧ (c = .crcHw → s.hwCap = true)
  | .detect => s.initDone = true ∧ (c = .init ∨ c = .crc32c) ∧ (s.bind = .uninitialized ∨ s.bind = .detecting)
  | .p => BodyFits c s
  | .l => BodyFits c s ∧ (s.len ≠ 0 → s.next % 8 = 0)
  | .s => BodyFits c s ∧ (s.len ≠ 0 → s.next % 8 = 0) ∧ s.len < 3 * longBlock
  | .w => BodyFits c s ∧ (s.len ≠ 0 → s.next % 8 = 0) ∧ s.len < 3 * shortBlock
  | .t => BodyFits c s ∧ s.len < 8

/-- The invariant of the engine: `AW` as R6 admits it, the operands `uAW` numbers, buffer memory in its canonical form,
the tables as R16 says, `BIND` as R15 and R85
say, a command waiting only in `IDLE` (D16), and in every other phase a legal command in `CW` and the phase as R24
says. No micro-operation stands in the slot: only a command performs one (R43, R48). -/
structure Inv (s : State) : Prop where
  width : 16 ≤ s.aw
  aFits : s.a < 2 ^ s.aw
  nFits : s.n < 2 ^ s.aw
  memWf : Memory.wf s.aw s.mem = true
  slotEmpty : s.micro.slot = none
  tables : TablesBuilt s
  bind : BindFits s
  detecting : s.bind = .detecting → s.ph = .detect
  pending : s.cwPending = true → s.ph = .idle
  inProgress : s.ph ≠ .idle → ∃ c, hostWord s.cw = some c ∧ PhaseFits c s

end Sys2Proof.Machine
end

