-- ==== Sys2Proof/Certificates/Slice0/Obligations.lean ====
section
/-! DEFINITION. The statements for the provers, from the spec's numbered rules. -/

open Sys2Proof Sys2Proof.Machine

/-! ## Command words -/

/-- R47: the operation codes and the place of the `T` bit, word by word. -/
def Obligations.OperationCodesAreThoseOfTheMap : Prop :=
  encode .init = 0x00000001 ∧ encode .crc32c = 0x00000002 ∧ encode .crcSw = 0x00000003 ∧
  encode .crcHw = 0x00000004 ∧ encode .mtimes = 0x00000010 ∧ encode .msquare = 0x00000011 ∧
  encode .zop = 0x00000012 ∧ encode (.ztab .short) = 0x00000013 ∧ encode (.ztab .long) = 0x00000113 ∧
  encode (.shift .short) = 0x00000014 ∧ encode (.shift .long) = 0x00000114 ∧
  encode (.combine .short) = 0x00000015 ∧ encode (.combine .long) = 0x00000115 ∧
  encode .btab = 0x00000018 ∧ encode .swb = 0x00000020 ∧ encode .sww = 0x00000021 ∧
  encode .sw1 = 0x00000022 ∧ encode .sw3s = 0x00000023 ∧ encode .sw3l = 0x00000024 ∧
  encode .hwb = 0x00000030 ∧ encode .hww = 0x00000031 ∧ encode .hw1 = 0x00000032 ∧
  encode .hw3s = 0x00000033 ∧ encode .hw3l = 0x00000034 ∧ encode .detect = 0x00000040

/-- R44, R47, R49: the decoder answers an operation on exactly one word, the one the encoder writes for it. -/
def Obligations.DecodeAnswersExactlyTheEncodedWord : Prop :=
  ∀ (w : U32) (i : Instr), decode w = .ok i ↔ encode i = w

/-- R44, R47: the decoder answers an operation exactly on the words that pass the three checks of R44 and R47, and
names the check that fails. -/
def Obligations.DecodeRejectsExactlyIllFormedWords : Prop :=
  ∀ w : U32,
    ((∃ i, decode w = .ok i) ↔ (Fields.ofWord w).wellFormed = true) ∧
    (decode w = .error .reservedBits ↔ w.extractLsb' 9 23 ≠ 0) ∧
    (decode w = .error .tBit ↔ w.extractLsb' 9 23 = 0 ∧ w.getLsbD 8 = true ∧
      w.extractLsb' 0 8 ∈ Fields.plainOps)

/-- R48, R108: at the host port a word is legal only if bits [31:8] are zero and bits [7:0] are 1, 2, 3 or 4; such a
word is the command it names, and every other word gets `respond(ILLEGAL, 0)` and changes nothing else. The fields
`cwPending` and `resValid` are the model's own (entries 4 and 5). -/
def Obligations.HostPortAdmitsFourWords : Prop :=
  ∀ s : State, s.micro.slot = none → s.ph = .idle → s.cwPending = true →
    ((s.cw.extractLsb' 8 24 = 0 ∧ s.cw.extractLsb' 0 8 = 0x01 → step s = exec .init (takeCommand s)) ∧
     (s.cw.extractLsb' 8 24 = 0 ∧ s.cw.extractLsb' 0 8 = 0x02 → step s = exec .crc32c (takeCommand s)) ∧
     (s.cw.extractLsb' 8 24 = 0 ∧ s.cw.extractLsb' 0 8 = 0x03 → step s = exec .crcSw (takeCommand s)) ∧
     (s.cw.extractLsb' 8 24 = 0 ∧ s.cw.extractLsb' 0 8 = 0x04 → step s = exec .crcHw (takeCommand s)) ∧
     (¬ (s.cw.extractLsb' 8 24 = 0 ∧
          s.cw.extractLsb' 0 8 ∈ ([0x01, 0x02, 0x03, 0x04] : List (BitVec 8))) →
        step s = .next { s with cwPending := false, resValid := true, st := .illegal, res := 0 }))

/-- A few words of R47 written out bit by bit. -/
def Obligations.SampleWordsDecode : Prop :=
  decode 0b00000000000000000000000000000010 = .ok .crc32c ∧
  decode 0b00000000000000000000000000010001 = .ok .msquare ∧
  decode 0b00000000000000000000000100010011 = .ok (.ztab .long) ∧
  decode 0b00000000000000000000000000011000 = .ok .btab ∧
  decode 0b00000000000000000000000000100001 = .ok .sww ∧
  decode 0b00000000000000000000000000110011 = .ok .hw3s ∧
  decode 0b00000000000000000000000001000000 = .ok .detect

/-! ## The step -/

/-- What a step does: it performs the micro-operation whose word stands in the slot; in `IDLE` it runs the command
whose word was written to `CW`; with a command in progress it takes one arrow; else it waits. -/
def Obligations.StepRunsTheDecodedOperation : Prop :=
  (∀ (s : State) (w : U32) (i : Instr), s.micro.slot = some w → decode w = .ok i → hostCmdOf i = none →
    step s = exec i (takeMicro s)) ∧
  (∀ (s : State) (c : HostCmd), s.micro.slot = none → s.ph = .idle → s.cwPending = true →
    decode s.cw = .ok (instrOf c) → step s = exec (instrOf c) (takeCommand s)) ∧
  (∀ (s : State) (c : HostCmd), s.micro.slot = none → s.ph ≠ .idle → decode s.cw = .ok (instrOf c) →
    step s = toOutcome (arrow c s)) ∧
  (∀ s : State, s.micro.slot = none → s.ph = .idle → s.cwPending = false → step s = .next s)

/-- R24, the arrows out of the phases of a checksum command's body, with the conditions in the order written. Of the
state with the response written it speaks as R119 lets a claim. -/
def Obligations.PhaseArrowsFollowTheDiagram : Prop :=
  ∀ (c : HostCmd) (s t : State), arrow c s = .ok t →
    (s.ph = .p → if s.len ≠ 0 ∧ s.next % 8 ≠ 0
      then t.ph = .p ∧ t.len = s.len - 1 else t = { s with ph := .l }) ∧
    (s.ph = .l → if 24576 ≤ s.len
      then t.ph = .l ∧ t.len = s.len - 24576 else t = { s with ph := .s }) ∧
    (s.ph = .s → if 768 ≤ s.len
      then t.ph = .s ∧ t.len = s.len - 768 else t = { s with ph := .w }) ∧
    (s.ph = .w → if 8 ≤ s.len
      then t.ph = .w ∧ t.len = s.len - 8 else t = { s with ph := .t }) ∧
    (s.ph = .t → if s.len ≠ 0
      then t.ph = .t ∧ t.len = s.len - 1
      else finalState t =
        finalState { s with ph := .idle, st := .ok, res := s.acc0 ^^^ 0xFFFFFFFF, resValid := true })

/-- R11: every arrow within the body moves `NEXT` and `LEN` by the same count, so their sum stays. With the response
written both are dead (R26, R119), so the arrow that responds is not spoken of. -/
def Obligations.PointerPlusLengthStays : Prop :=
  ∀ (c : HostCmd) (s t : State), arrow c s = .ok t →
    (s.ph = .p ∨ s.ph = .l ∨ s.ph = .s ∨ s.ph = .w ∨ s.ph = .t) → t.ph ≠ .idle →
    s.next + s.len < 2 ^ s.aw →
    t.next + t.len = s.next + s.len

/-- R75: from the start of phase `P` with the operands loaded, the number of byte steps, long groups, short groups,
word steps and byte steps of the five phases, as arrows, and the bytes left after each phase: none before the arrow
that responds. -/
def Obligations.PhaseByteCounts : Prop :=
  ∀ (c : HostCmd) (e : Engine) (s : State) (d : List U8), engineFor c s = .ok e → EngineReady e s →
    bufferBytes s s.a s.n = some d →
    ∃ p n1 gL n2 gS n3 w t : Nat,
      p = min s.n ((8 - s.a % 8) % 8) ∧ n1 = s.n - p ∧
      gL = n1 / 24576 ∧ n2 = n1 - 24576 * gL ∧ gS = n2 / 768 ∧ n3 = n2 - 768 * gS ∧ w = n3 / 8 ∧ t = n3 % 8 ∧
      s.n = p + 24576 * gL + 768 * gS + 8 * w + t ∧
      ∃ s1 s2 s3 s4 s5 s6 : State,
        arrows c (p + 1) (loadOperands s) = .ok s1 ∧ s1.ph = .l ∧ s1.len = n1 ∧
        arrows c (gL + 1) s1 = .ok s2 ∧ s2.ph = .s ∧ s2.len = n2 ∧
        arrows c (gS + 1) s2 = .ok s3 ∧ s3.ph = .w ∧ s3.len = n3 ∧
        arrows c (w + 1) s3 = .ok s4 ∧ s4.ph = .t ∧ s4.len = t ∧
        arrows c t s4 = .ok s5 ∧ s5.ph = .t ∧ s5.len = 0 ∧
        arrow c s5 = .ok s6 ∧ s6.ph = .idle

/-- Stepping a command in progress, arrow by arrow, reaches the final state its operation's meaning answers, as far as
a claim may speak of it (R119). -/
def Obligations.ArrowsReachTheResponse : Prop :=
  ∀ (c : HostCmd) (s t : State), s.micro.slot = none → s.cwPending = false → s.cw = encode (instrOf c) →
    exec (instrOf c) s = .next t →
    ∃ k, finalOutcome (Host.Core.run Sys2Proof.core k (beginCommand c s)) = .next (finalState t)

/-! ## Reset and the invariant -/

/-- R25, R115: the values the spec gives for reset, in `State.reset` and after the reset event in any state; the
host's memory and the parameters stay. The registers R25 calls unspecified are not spoken of. -/
def Obligations.ResetLeavesTheGivenValues : Prop :=
  (State.reset.initDone = false ∧ State.reset.bind = .uninitialized ∧ State.reset.ph = .idle ∧
    State.reset.st = .ok ∧ State.reset.bt = none ∧ State.reset.zs = none ∧ State.reset.zl = none ∧
    State.reset.meven = none ∧ State.reset.modd = none) ∧
  ∀ s : State, (resetEvent s).initDone = false ∧ (resetEvent s).bind = .uninitialized ∧
    (resetEvent s).ph = .idle ∧ (resetEvent s).st = .ok ∧ (resetEvent s).bt = none ∧
    (resetEvent s).zs = none ∧ (resetEvent s).zl = none ∧ (resetEvent s).meven = none ∧
    (resetEvent s).modd = none ∧ (resetEvent s).hwCap = s.hwCap ∧ (resetEvent s).aw = s.aw ∧ SameBytes s (resetEvent s)

/-- The invariant holds at reset, of every instance that R6 admits. -/
def Obligations.InvariantHoldsAtReset : Prop :=
  Inv State.reset ∧ ∀ (hwCap : Bool) (aw : Nat), 16 ≤ aw → Inv (State.resetWith hwCap aw [])

/-- Every step keeps the invariant: the operands `uAW` numbers, the canonical memory, the contents R16 promises of the
tables, `BIND` as R15 and R85 say, and the phase of a command in progress as R24 says. -/
def Obligations.EveryStepKeepsTheInvariant : Prop :=
  ∀ s t : State, Inv s → step s = .next t → Inv t

/-- The moves R112 leaves the host, and reset, keep the invariant. -/
def Obligations.HostMovesKeepTheInvariant : Prop :=
  ∀ s : State, Inv s →
    (∀ (number v : Nat) (t : State), hostWrite number v s = some t → Inv t) ∧
    (∀ (addr : Nat) (b : U8) (t : State), hostPoke addr b s = some t → Inv t) ∧
    Inv (resetEvent s)

/-- R15, R85: no step leaves a bound state, and none goes back to `Uninitialized`. -/
def Obligations.BindingIsTerminal : Prop :=
  ∀ s t : State, step s = .next t →
    (s.bind = .boundSoftware → t.bind = .boundSoftware) ∧
    (s.bind = .boundHardware → t.bind = .boundHardware) ∧
    (s.bind ≠ .uninitialized → t.bind ≠ .uninitialized)

/-- R16, R40: with `INIT_DONE` set no step clears it and none writes a table. -/
def Obligations.TablesAreWrittenOnce : Prop :=
  ∀ s t : State, Inv s → s.initDone = true → step s = .next t →
    t.initDone = true ∧ t.bt = s.bt ∧ t.zs = s.zs ∧ t.zl = s.zl

/-- R6, R17, R20, R36: no step writes an operand register, `CW`, a parameter or a byte of buffer memory. -/
def Obligations.NoStepWritesTheHostSide : Prop :=
  ∀ s t : State, step s = .next t → HostSideSame s t

/-! ## Buffer memory and the host's port -/

/-- R32: an aligned 8-byte read is the sum of its bytes, the byte at the lowest address in bits [7:0]. -/
def Obligations.WordReadIsLittleEndian : Prop :=
  ∀ (s : State) (addr : Nat) (b : Fin 8 → U8), addr % 8 = 0 →
    (∀ j : Fin 8, memRead1 s (addr + j.val) = .ok (b j)) →
    memRead8 s addr = .ok (
      (b 0).setWidth 64 + ((b 1).setWidth 64 <<< 8) + ((b 2).setWidth 64 <<< 16) + ((b 3).setWidth 64 <<< 24) +
      ((b 4).setWidth 64 <<< 32) + ((b 5).setWidth 64 <<< 40) + ((b 6).setWidth 64 <<< 48) +
      ((b 7).setWidth 64 <<< 56))

/-- R34: the spec defines no behaviour for a misaligned 8-byte read; the model stops there. -/
def Obligations.MisalignedWordReadStops : Prop :=
  ∀ (s : State) (addr : Nat), addr % 8 ≠ 0 → memRead8 s addr = .error .misalignedWordRead

/-- A byte the host sets at an `AW`-bit address is the byte then read, every other address reads as before, and the
canonical form stays; there is no other address to set. -/
def Obligations.HostByteIsReadBack : Prop :=
  ∀ (s : State) (addr : Nat) (b : U8), hostMayMove s = true →
    (addr < 2 ^ s.aw → ∃ t, hostPoke addr b s = some t ∧ memRead1 t addr = .ok b ∧
      (∀ other : Nat, other ≠ addr → memRead1 t other = memRead1 s other) ∧
      (Memory.wf s.aw s.mem = true → Memory.wf t.aw t.mem = true)) ∧
    (2 ^ s.aw ≤ addr → hostPoke addr b s = none)

/-- R19: the fields of `STATUS`, and which registers the host reads and writes in `IDLE`, the bits above a
register's width ignored. `RES` is spoken of once a
command has responded (U5). -/
def Obligations.HostRegistersAreTheMap : Prop :=
  ∀ s : State, hostMayMove s = true →
    (statusWord s).getLsbD 0 = s.initDone ∧ (statusWord s).extractLsb' 1 2 = s.bind.code ∧
    (statusWord s).extractLsb' 3 2 = s.st.code ∧ (statusWord s).getLsbD 5 = s.hwCap ∧
    (statusWord s).extractLsb' 6 26 = 0 ∧
    hostRead 5 s = some (statusWord s).toNat ∧
    (s.resValid = true → hostRead 4 s = some s.res.toNat) ∧
    (∀ v : Nat, hostWrite 0 v s = some { s with cw := BitVec.ofNat 32 v, cwPending := true } ∧
      hostWrite 1 v s = some { s with a := v % 2 ^ s.aw } ∧ hostWrite 2 v s = some { s with n := v % 2 ^ s.aw } ∧
      hostWrite 3 v s = some { s with seed := BitVec.ofNat 32 v })

/-- R50, R51: the register writes a program line stands for, its address and length `uAW` numbers, and what the two
pseudo-instructions expand to. A seed
`RES` is spoken of once a command has responded (U5); `cwPending` is the model's own field (entry 4). -/
def Obligations.ProgramLinesWriteTheRegisters : Prop :=
  ∀ s : State, hostMayMove s = true →
    issueLine .init s = some { s with cw := 0x01, cwPending := true } ∧
    ∀ (addr len : Nat) (v : U32), addr < 2 ^ s.aw → len < 2 ^ s.aw →
      issueLine (.crc32c addr len (.lit v)) s =
        some { s with a := addr, n := len, seed := v, cw := 0x02, cwPending := true } ∧
      issueLine (.crcSw addr len (.lit v)) s =
        some { s with a := addr, n := len, seed := v, cw := 0x03, cwPending := true } ∧
      issueLine (.crcHw addr len (.lit v)) s =
        some { s with a := addr, n := len, seed := v, cw := 0x04, cwPending := true } ∧
      (s.resValid = true →
        issueLine (.crc32c addr len .res) s = issueLine (.crc32c addr len (.lit s.res)) s ∧
        issueLine (.crcSw addr len .res) s = issueLine (.crcSw addr len (.lit s.res)) s ∧
        issueLine (.crcHw addr len .res) s = issueLine (.crcHw addr len (.lit s.res)) s) ∧
      issueLine (.crc addr len) s = issueLine (.crc32c addr len (.lit 0)) s ∧
      issueLine (.crcNext addr len) s = issueLine (.crc32c addr len .res) s

/-! ## GF(2) matrices and the zero-shift operator -/

/-- R53: MTIMES XORs the words that the set bits of the vector select, and leaves everything else; the corner cases
0, one bit, all bits and the linearity in the vector. -/
def Obligations.MtimesXorsTheSelectedWords : Prop :=
  ∀ (s : State) (m : Matrix), currentMatrix s = .ok m →
    exec .mtimes s = .next (setOut (mtimes m s.micro.vec) s) ∧
    (∀ (v : U32) (j : Fin 32), (mtimes m v).getLsbD j.val =
      (List.finRange 32).foldl (fun sum i => xor sum (v.getLsbD i.val && (m[i]).getLsbD j.val)) false) ∧
    mtimes m 0 = 0 ∧ (∀ i : Fin 32, mtimes m ((1 : U32) <<< i.val) = m[i]) ∧
    (∀ a b : U32, mtimes m (a ^^^ b) = mtimes m a ^^^ mtimes m b) ∧
    mtimes m 0xFFFFFFFF = (List.finRange 32).foldl (fun sum i => sum ^^^ m[i]) 0

/-- R54: MSQUARE writes the matrix of the map applied twice into the other scratch matrix, word by word as R54 says,
and leaves everything else; the zero matrix and the identity square to themselves. -/
def Obligations.MsquareIsTheMapAppliedTwice : Prop :=
  ∀ (s : State) (m : Matrix), currentMatrix s = .ok m →
    ∃ q : Matrix,
      (s.scratch = .odd → exec .msquare s = .next { s with meven := some q, scratch := .even }) ∧
      (s.scratch = .even → exec .msquare s = .next { s with modd := some q, scratch := .odd }) ∧
      (∀ n : Fin 32, q[n] = mtimes m m[n]) ∧
      (∀ v : U32, mtimes q v = mtimes m (mtimes m v)) ∧
      ((∀ n : Fin 32, m[n] = 0) → q = m) ∧
      ((∀ n : Fin 32, m[n] = (1 : U32) <<< n.val) → q = m)

/-- R55: the words of `ZBASE`, and that it represents one zero bit. -/
def Obligations.BaseOperatorIsOneZeroBit : Prop :=
  zbase[0] = 0x82F63B78 ∧ (∀ n : Fin 32, n.val ≠ 0 → zbase[n] = (1 : U32) <<< (n.val - 1)) ∧
  ∀ v : U32, mtimes zbase v = z1 v

/-- R56: ZOP leaves the operator of `2^k` zero bytes, `k` the largest with `2^k <= len`, as the current matrix, in
`MEVEN` for 256 and in `MODD` for 8192, and changes the scratch matrices alone. -/
def Obligations.ZopIsTheZeroByteOperator : Prop :=
  ∀ (s : State) (k : Nat), 2 ^ k ≤ s.micro.len → s.micro.len < 2 ^ (k + 1) →
    ∃ (t : State) (m : Matrix), exec .zop s = .next t ∧ currentMatrix t = .ok m ∧
      (∀ v : U32, mtimes m v = zn v (8 * 2 ^ k)) ∧
      (k = 8 → t.scratch = .even) ∧ (k = 13 → t.scratch = .odd) ∧
      t = { s with meven := t.meven, modd := t.modd, scratch := t.scratch }

/-- U6, D17 (treatment `refuse`): ZOP of zero bytes is refused. -/
def Obligations.ZopOfZeroBytesIsRefused : Prop :=
  ∀ s : State, s.micro.len = 0 → exec .zop s = .refused .zopOfZero

/-- R57: ZTAB writes the selected table, entry by entry the operator's action on one byte at one position, and leaves
everything else. -/
def Obligations.ZtabRecordsTheOperatorByteByByte : Prop :=
  ∀ (s : State) (m : Matrix) (which : TableSel), currentMatrix s = .ok m →
    ∃ tab : ShiftTable,
      exec (.ztab which) s = .next (match which with
        | .short => { s with zs := some tab }
        | .long => { s with zl := some tab }) ∧
      (∀ (p : Fin 4) (n : U8), tableAt tab p n = mtimes m (n.setWidth 32 <<< (8 * p.val))) ∧
      (∀ p : Fin 4, tableAt tab p 0 = 0) ∧
      (∀ (p : Fin 4) (i : Fin 8), tableAt tab p ((1 : U8) <<< i.val) = m[8 * p.val + i.val]'(by omega))

/-- R58: SHIFT is four lookups XORed, requires `INIT_DONE == 1`, and writes nothing but its result. -/
def Obligations.ShiftIsFourLookups : Prop :=
  ∀ (s : State) (which : TableSel) (tab : ShiftTable), s.initDone = true → shiftTable s which = some tab →
    exec (.shift which) s = .next (setOut
      (tableAt tab 0 (s.micro.vec.extractLsb' 0 8) ^^^ tableAt tab 1 (s.micro.vec.extractLsb' 8 8) ^^^
        tableAt tab 2 (s.micro.vec.extractLsb' 16 8) ^^^ tableAt tab 3 (s.micro.vec.extractLsb' 24 8)) s)

/-- R59: the operator ZOP builds for a block, the table ZTAB derives from it and SHIFT by that table all advance a
raw state by the block's zero bytes; so does SHIFT on an initialised engine. -/
def Obligations.OperatorsTablesAndShiftAgree : Prop :=
  (∀ (s t : State) (which : TableSel) (m : Matrix), zop (blockOf which) s = .ok t → currentMatrix t = .ok m →
    (∀ c : U32, mtimes m c = zn c (8 * blockOf which) ∧ shiftBy (ztabOf m) c = zn c (8 * blockOf which)) ∧
    (∀ (p : Fin 4) (n : U8), tableAt (ztabOf m) p n = zn (n.setWidth 32 <<< (8 * p.val)) (8 * blockOf which))) ∧
  (∀ (s : State) (which : TableSel), s.initDone = true → TablesBuilt s →
    exec (.shift which) s = .next (setOut (zn s.micro.vec (8 * blockOf which)) s))

/-! ## The byte table -/

/-- R61, R62: BTAB writes `BT` with the closed form, row 0 by eight LFSR steps and row `k` by folding row `k - 1`
through row 0, and leaves everything else. -/
def Obligations.BtabIsTheClosedForm : Prop :=
  ∀ s : State, ∃ tab : ByteTable, exec .btab s = .next { s with bt := some tab } ∧
    (∀ (k : Fin 8) (b : U8), tableAt tab k b = zn (b.setWidth 32) (8 * (k.val + 1))) ∧
    (∀ (k : Fin 7) (b : U8), tableAt tab k.succ b =
      tableAt tab 0 ((tableAt tab k.castSucc b).extractLsb' 0 8) ^^^ (tableAt tab k.castSucc b >>> 8))

/-! ## The software engine's steps and paths -/

/-- R64: SWB looks up row 0 as written; with the built table it is eight LFSR steps after XORing the byte; nothing but
the result is written. -/
def Obligations.SwbIsTheTableByteStep : Prop :=
  ∀ s : State, s.initDone = true →
    (∀ tab : ByteTable, s.bt = some tab → exec .swb s = .next (setOut
      (tableAt tab 0 ((s.micro.vec ^^^ s.micro.byte.setWidth 32).extractLsb' 0 8) ^^^ (s.micro.vec >>> 8)) s)) ∧
    (TablesBuilt s →
      exec .swb s = .next (setOut (zn (s.micro.vec ^^^ s.micro.byte.setWidth 32) 8) s))

/-- R65: SWW XORs eight lookups, byte `j` of the widened accumulator XOR the word indexing row `7 - j`, and writes
nothing but its result. -/
def Obligations.SwwIsEightLookups : Prop :=
  ∀ (s : State) (tab : ByteTable), s.initDone = true → s.bt = some tab →
    exec .sww s = .next (setOut ((List.finRange 8).foldl
      (fun sum j => sum ^^^ tableAt tab (Fin.rev j)
        ((s.micro.vec.setWidth 64 ^^^ s.micro.data).extractLsb' (8 * j.val) 8)) 0) s)

/-- R66: on an initialised engine an 8-byte step equals eight byte steps in ascending address order. -/
def Obligations.WordStepIsEightByteSteps : Prop :=
  ∀ s : State, s.initDone = true → TablesBuilt s →
    ∃ tab : ByteTable, s.bt = some tab ∧
      (∀ (a : U32) (w : U64), sww tab a w =
        (List.finRange 8).foldl (fun acc j => swb tab acc (w.extractLsb' (8 * j.val) 8)) a) ∧
      exec .sww s = .next (setOut ((List.finRange 8).foldl
        (fun acc j => swb tab acc (s.micro.data.extractLsb' (8 * j.val) 8)) s.micro.vec) s)

/-- R67, R68: SW1 leaves in `ACC0` what the byte oracle gives for the bytes of the buffer, whatever the alignment, and
`LEN == 0`; it changes `ACC0`, `NEXT` and `LEN` alone, and nothing when `LEN == 0`. -/
def Obligations.Sw1IsTheByteOracle : Prop :=
  (∀ (s : State) (d : List U8), s.initDone = true → TablesBuilt s →
    bufferBytes s s.next s.len = some d →
    ∃ t, exec .sw1 s = .next t ∧ t.acc0 = raw s.acc0 d ∧ t.len = 0 ∧
      t = { s with acc0 := t.acc0, next := t.next, len := t.len }) ∧
  (∀ s : State, s.len = 0 → exec .sw1 s = .next s)

/-- R69: COMBINE as written, two shifts by the selected table one after the other; on an initialised engine the new
`ACC0` is `Zn(ACC0, 16*B) ^ Zn(ACC1, 8*B) ^ ACC2`; only `ACC0` is written. -/
def Obligations.CombineRecombinesThreeLanes : Prop :=
  ∀ (s : State) (which : TableSel), s.initDone = true →
    (∀ tab : ShiftTable, shiftTable s which = some tab → exec (.combine which) s =
      .next { s with acc0 := shiftBy tab (shiftBy tab s.acc0 ^^^ s.acc1) ^^^ s.acc2 }) ∧
    (TablesBuilt s → exec (.combine which) s = .next (setAcc0
      (zn s.acc0 (16 * blockOf which) ^^^ zn s.acc1 (8 * blockOf which) ^^^ s.acc2) s))

/-- R70, R71, R73: a software group over `3*BLOCK` readable bytes at an aligned `NEXT` leaves in `ACC0` what the byte
oracle gives for them, moves `NEXT` and `LEN`, and changes nothing but those and the lane accumulators. The value of
`NEXT` is stated where the group ends below the top of the address space (U2, entry 6). -/
def Obligations.SoftwareGroupsAreTheByteOracle : Prop :=
  ∀ (s : State) (i : Instr) (which : TableSel) (d : List U8),
    ((i = .sw3s ∧ which = .short) ∨ (i = .sw3l ∧ which = .long)) →
    s.initDone = true → TablesBuilt s → s.next % 8 = 0 → 3 * blockOf which ≤ s.len →
    bufferBytes s s.next (3 * blockOf which) = some d →
    (s.next + 3 * blockOf which < 2 ^ s.aw ∨ s.len = 3 * blockOf which) →
    ∃ t, exec i s = .next t ∧ t.acc0 = raw s.acc0 d ∧
      t.acc1 = raw 0 ((d.drop (blockOf which)).take (blockOf which)) ∧ t.acc2 = raw 0 (d.drop (2 * blockOf which)) ∧
      t.len = s.len - 3 * blockOf which ∧
      (s.next + 3 * blockOf which < 2 ^ s.aw → t.next = s.next + 3 * blockOf which) ∧
      t = { s with acc0 := t.acc0, acc1 := t.acc1, acc2 := t.acc2, next := t.next, len := t.len }

/-- The preconditions of R70, R71, R81 and R82: with fewer than `3*BLOCK` bytes left a group stops, with none of its
effect. -/
def Obligations.GroupStopsBelowItsLength : Prop :=
  ∀ s : State,
    (s.len < 768 → exec .sw3s s = .fault .groupPastEnd ∧ exec .hw3s s = .fault .groupPastEnd) ∧
    (s.len < 24576 → exec .sw3l s = .fault .groupPastEnd ∧ exec .hw3l s = .fault .groupPastEnd)

/-- R72, R73: CRC_SW responds `(OK, ByteCRC(D, S))` for the `N` bytes at `A`, whatever `A mod 8`, with the tables
built and `BIND` as it was. -/
def Obligations.CrcSwRespondsByteCrc : Prop :=
  ∀ (s : State) (d : List U8), TablesBuilt s → bufferBytes s s.a s.n = some d →
    ∃ t, exec .crcSw s = .next t ∧ t.st = .ok ∧ t.res = byteCrc d s.seed ∧ Responded s t ∧ t.bind = s.bind

/-! ## The hardware engine -/

/-- R77: with the unit present HWB is eight LFSR steps after XORing the byte, and writes nothing but its result. -/
def Obligations.HwbIsEightSteps : Prop :=
  ∀ s : State, s.hwCap = true →
    exec .hwb s = .next (setOut (zn (s.micro.vec ^^^ s.micro.byte.setWidth 32) 8) s) ∧
    (∀ a : U32, hwb a (a.extractLsb' 0 8) = a >>> 8) ∧
    (∀ (a a' : U32) (b b' : U8), hwb (a ^^^ a') (b ^^^ b') = hwb a b ^^^ hwb a' b')

/-- R78: with the unit present HWW is the low half of 64 bit-serial steps, whose upper half is zero by then, and
writes nothing but its result. -/
def Obligations.HwwIsSixtyFourSteps : Prop :=
  ∀ s : State, s.hwCap = true →
    exec .hww s = .next (setOut (hww s.micro.vec s.micro.data) s) ∧
    (∀ (a : U32) (w : U64), (hww a w).setWidth 64 =
      (List.range 64).foldl (fun (x : U64) _ => (x >>> 1) ^^^ (if x.getLsbD 0 then (0x82F63B78 : U64) else 0))
        (a.setWidth 64 ^^^ w)) ∧
    (∀ a : U32, hww a (a.setWidth 64) = 0)

/-- D12: without the unit HWB and HWW stop. The model's reading of "the engine must not claim a result from a unit that
does not exist"; R20 says the two micro-operations are the unit. -/
def Obligations.AbsentUnitStops : Prop :=
  ∀ s : State, s.hwCap = false →
    exec .hwb s = .fault .checksumUnitAbsent ∧ exec .hww s = .fault .checksumUnitAbsent

/-- R79: the hardware and software steps are the same functions. -/
def Obligations.HardwareAndSoftwareStepsAgree : Prop :=
  ∀ (a : U32) (b : U8) (w : U64), hwb a b = swb closedByteTable a b ∧ hww a w = sww closedByteTable a w

/-- R80: HW1 leaves what the byte oracle gives, as SW1; nothing changes when `LEN == 0`. -/
def Obligations.Hw1IsTheByteOracle : Prop :=
  (∀ (s : State) (d : List U8), s.hwCap = true → bufferBytes s s.next s.len = some d →
    ∃ t, exec .hw1 s = .next t ∧ t.acc0 = raw s.acc0 d ∧ t.len = 0 ∧
      t = { s with acc0 := t.acc0, next := t.next, len := t.len }) ∧
  (∀ s : State, s.len = 0 → exec .hw1 s = .next s)

/-- R81, R82: a hardware group answers the state a software group would (R79): the byte oracle in `ACC0`. -/
def Obligations.HardwareGroupsAreTheByteOracle : Prop :=
  ∀ (s : State) (i : Instr) (which : TableSel) (d : List U8),
    ((i = .hw3s ∧ which = .short) ∨ (i = .hw3l ∧ which = .long)) →
    s.hwCap = true → s.initDone = true → TablesBuilt s → s.next % 8 = 0 →
    3 * blockOf which ≤ s.len → bufferBytes s s.next (3 * blockOf which) = some d →
    (s.next + 3 * blockOf which < 2 ^ s.aw ∨ s.len = 3 * blockOf which) →
    ∃ t, exec i s = .next t ∧ t.acc0 = raw s.acc0 d ∧
      t.acc1 = raw 0 ((d.drop (blockOf which)).take (blockOf which)) ∧ t.acc2 = raw 0 (d.drop (2 * blockOf which)) ∧
      t.len = s.len - 3 * blockOf which ∧
      (s.next + 3 * blockOf which < 2 ^ s.aw → t.next = s.next + 3 * blockOf which) ∧
      t = { s with acc0 := t.acc0, acc1 := t.acc1, acc2 := t.acc2, next := t.next, len := t.len }

/-- R83: CRC_HW with the unit present responds `(OK, ByteCRC(D, S))`, with `BIND` as it was. -/
def Obligations.CrcHwRespondsByteCrc : Prop :=
  ∀ (s : State) (d : List U8), s.hwCap = true → TablesBuilt s → bufferBytes s s.a s.n = some d →
    ∃ t, exec .crcHw s = .next t ∧ t.st = .ok ∧ t.res = byteCrc d s.seed ∧ Responded s t ∧ t.bind = s.bind

/-- R109: CRC_HW without the unit responds `(UNAVAILABLE, 0)` and changes nothing else. The field `resValid` is the
model's own (entry 5). -/
def Obligations.CrcHwWithoutTheUnitIsUnavailable : Prop :=
  ∀ s : State, s.hwCap = false →
    exec .crcHw s = .next { s with st := .unavailable, res := 0, ph := .idle, resValid := true }

/-- R79, R74 (e): with the unit present the two engine commands answer the same outcome in every state whose tables
are as R16 says, all that R119 lets a claim speak of and every stop included; on an initialised engine so does every
arrow before the one that responds, the accumulators, `NEXT` and `LEN` included. -/
def Obligations.EnginesAnswerTheSame : Prop :=
  ∀ s : State, s.hwCap = true → TablesBuilt s →
    finalOutcome (exec .crcHw s) = finalOutcome (exec .crcSw s) ∧
    (s.initDone = true → (s.ph = .t → s.len ≠ 0) → arrow .crcHw s = arrow .crcSw s)

/-! ## The dispatcher and the entry point -/

/-- R86: DETECT in `Uninitialized` binds by `HW_CAP` and changes nothing else; it starts in no other state. -/
def Obligations.DetectBindsByCapability : Prop :=
  ∀ s : State,
    (s.bind = .uninitialized → s.hwCap = true → exec .detect s = .next { s with bind := .boundHardware }) ∧
    (s.bind = .uninitialized → s.hwCap = false → exec .detect s = .next { s with bind := .boundSoftware }) ∧
    (s.bind ≠ .uninitialized → exec .detect s = .fault .detectStartedTwice)

/-- R87, R88: INIT responds `(OK, 0)` with the tables built and `BIND` resolved; a second INIT writes nothing but the
response, of all that R119 lets a claim speak of. -/
def Obligations.InitBuildsAndBindsOnce : Prop :=
  ∀ s : State, TablesBuilt s →
    (∃ t, exec .init s = .next t ∧ t.st = .ok ∧ t.res = 0 ∧ Responded s t ∧ t.bind = boundAfter s) ∧
    (s.initDone = true → s.bind ≠ .uninitialized →
      finalOutcome (exec .init s) = .next (finalState { s with st := .ok, res := 0, ph := .idle, resValid := true }))

/-- R89, R90: CRC32C responds `(OK, ByteCRC(D, S))` whatever `BIND` and `HW_CAP` are, whatever `A mod 8` is and whatever
commands came before, and leaves `BIND` resolved. -/
def Obligations.Crc32cRespondsByteCrc : Prop :=
  ∀ (s : State) (d : List U8), TablesBuilt s → BindFits s → s.bind ≠ .detecting →
    bufferBytes s s.a s.n = some d →
    ∃ t, exec .crc32c s = .next t ∧ t.st = .ok ∧ t.res = byteCrc d s.seed ∧ Responded s t ∧
      t.bind = boundAfter s

/-- R74 (a): an empty buffer returns the seed, whatever `A` and the memory are. -/
def Obligations.EmptyBufferReturnsTheSeed : Prop :=
  ∀ (s : State) (i : Instr), s.n = 0 →
    (i = .crcSw ∨ (i = .crcHw ∧ s.hwCap = true) ∨ (i = .crc32c ∧ s.bind ≠ .detecting)) →
    ∃ t, exec i s = .next t ∧ t.st = .ok ∧ t.res = s.seed ∧ SameBytes s t

/-- R74 (c): a checksum of a buffer in two commands, the second seeded with the first's result, is the checksum in one.
The second address is what `A` keeps of it (R19): at the end of a buffer that ends at `2^AW` no byte is left. -/
def Obligations.ChainingEqualsOneShot : Prop :=
  ∀ (s : State) (d : List U8) (k : Nat), TablesBuilt s → BindFits s → s.bind ≠ .detecting →
    bufferBytes s s.a s.n = some d → k ≤ s.n →
    ∃ t t1 t2, exec .crc32c s = .next t ∧ exec .crc32c { s with n := k } = .next t1 ∧
      exec .crc32c { t1 with a := (s.a + k) % 2 ^ s.aw, n := s.n - k, seed := t1.res } = .next t2 ∧
      t2.st = .ok ∧ t2.res = t.res

/-- R74 (d): flipping one bit of the buffer changes the result. -/
def Obligations.OneFlippedBitChangesTheResult : Prop :=
  ∀ (s t t' : State) (mem' : List Host.Cell) (d : List U8) (j : Fin d.length) (b : Fin 8),
    TablesBuilt s → BindFits s → bufferBytes s s.a s.n = some d →
    bufferBytes { s with mem := mem' } s.a s.n = some (d.set j.val (d[j] ^^^ ((1 : U8) <<< b.val))) →
    exec .crc32c s = .next t → exec .crc32c { s with mem := mem' } = .next t' → t.res ≠ t'.res

/-! ## Whole-machine rules -/

/-- R46, R123: a host command that answers has responded once: `PH == IDLE` and a status of R103. -/
def Obligations.EveryCommandResponds : Prop :=
  ∀ (c : HostCmd) (s t : State), exec (instrOf c) s = .next t →
    t.ph = .idle ∧ t.resValid = true ∧
    (t.st = .ok ∨ (t.st = .unavailable ∧ t.res = 0 ∧ c = .crcHw ∧ s.hwCap = false))

/-- R101, U1, U2: a checksum command over a region that is not all readable, or that passes the top of the address
space, is stuck at a read; it never responds. -/
def Obligations.UnreadableBufferIsStuck : Prop :=
  ∀ (s : State) (i : Instr), TablesBuilt s → BindFits s → bufferBytes s s.a s.n = none →
    (i = .crcSw ∨ (i = .crcHw ∧ s.hwCap = true) ∨ (i = .crc32c ∧ s.bind ≠ .detecting)) →
    exec i s = .fault .unreadableAddress ∨ exec i s = .fault .addressPastTop

/-- R29, R35: a command depends on no byte outside `A .. A+N-1`: with another memory that reads the same there it
answers the same, of all that R119 lets a claim speak of, stops included. -/
def Obligations.OnlyTheBufferMatters : Prop :=
  ∀ (c : HostCmd) (s : State) (mem' : List Host.Cell),
    (∀ addr : Nat, s.a ≤ addr → addr < s.a + s.n →
      Memory.read mem' addr = Memory.read s.mem addr) →
    (∀ t, exec (instrOf c) s = .next t →
      finalOutcome (exec (instrOf c) { s with mem := mem' }) = .next (finalState { t with mem := mem' })) ∧
    (∀ f, exec (instrOf c) s = .fault f → exec (instrOf c) { s with mem := mem' } = .fault f)

/-- R16, R27, U7: with `INIT_DONE == 0` the operations SWB, SWW, SHIFT and COMBINE, which always read a table, stop; with
both scratch matrices unwritten MTIMES, MSQUARE and ZTAB, which read one, stop. SW1 and the groups, which read a table
through these, are not spoken of. -/
def Obligations.UnbuiltTablesAreNotRead : Prop :=
  (∀ s : State, s.initDone = false → ∀ which : TableSel,
    exec .swb s = .fault .tableNotBuilt ∧ exec .sww s = .fault .tableNotBuilt ∧
    exec (.shift which) s = .fault .tableNotBuilt ∧ exec (.combine which) s = .fault .tableNotBuilt) ∧
  (∀ s : State, s.meven = none → s.modd = none → ∀ which : TableSel,
    exec .mtimes s = .fault .matrixUnwritten ∧ exec .msquare s = .fault .matrixUnwritten ∧
    exec (.ztab which) s = .fault .matrixUnwritten)

/-! ## Frames -/

/-- R52, R30: what each micro-operation leaves unchanged when it answers. MTIMES, SHIFT, SWB, SWW, HWB, HWW write their
result alone; MSQUARE and ZOP the scratch matrices; ZTAB one shift table; BTAB `BT`; COMBINE `ACC0`; SW1 and HW1 `ACC0`,
`NEXT`, `LEN`; the groups the three accumulators, `NEXT`, `LEN`; DETECT `BIND`. Every byte reads as before. -/
def Obligations.MicroOperationsKeepTheirFrame : Prop :=
  ∀ (s t : State) (i : Instr), exec i s = .next t →
    ((i = .mtimes ∨ i = .shift .short ∨ i = .shift .long ∨ i = .swb ∨ i = .sww ∨ i = .hwb ∨ i = .hww) →
      t = { s with micro := { s.micro with out := t.micro.out } }) ∧
    ((i = .msquare ∨ i = .zop) → t = { s with meven := t.meven, modd := t.modd, scratch := t.scratch }) ∧
    (i = .ztab .short → t = { s with zs := t.zs }) ∧ (i = .ztab .long → t = { s with zl := t.zl }) ∧
    (i = .btab → t = { s with bt := t.bt }) ∧
    ((i = .combine .short ∨ i = .combine .long) → t = { s with acc0 := t.acc0 }) ∧
    ((i = .sw1 ∨ i = .hw1) → t = { s with acc0 := t.acc0, next := t.next, len := t.len }) ∧
    ((i = .sw3s ∨ i = .sw3l ∨ i = .hw3s ∨ i = .hw3l) →
      t = { s with acc0 := t.acc0, acc1 := t.acc1, acc2 := t.acc2, next := t.next, len := t.len }) ∧
    (i = .detect → t = { s with bind := t.bind }) ∧
    (∀ addr : Nat, memRead1 t addr = memRead1 s addr)

/-- What a host command leaves unchanged when it answers: the operand registers, `CW`, the parameters, every byte; `BIND`
unless it was `Uninitialized` and the command is INIT or CRC32C; the tables unless `INIT_DONE` was 0. The elements that
are dead once the response is written (R26, D19) are not spoken of: R119 forbids it. -/
def Obligations.HostCommandsKeepTheirFrame : Prop :=
  ∀ (c : HostCmd) (s t : State), exec (instrOf c) s = .next t →
    t.cw = s.cw ∧ t.a = s.a ∧ t.n = s.n ∧ t.seed = s.seed ∧ t.hwCap = s.hwCap ∧ t.aw = s.aw ∧
    t.cwPending = s.cwPending ∧ t.micro = s.micro ∧
    ((c = .crcSw ∨ c = .crcHw ∨ s.bind ≠ .uninitialized) → t.bind = s.bind) ∧
    (s.initDone = true → t.initDone = true ∧ t.bt = s.bt ∧ t.zs = s.zs ∧ t.zl = s.zl) ∧
    (∀ addr : Nat, memRead1 t addr = memRead1 s addr)
end

