-- ==== Sys2Proof/Laws/Final.lean ====
section
/-! SUPPORT. What `finalState` and `finalOutcome` keep of a state and of an outcome (70_reset_and_hazards.md rule R119):
one lemma per element that a claim may speak of, and when two states are the same to a claim. -/

namespace Sys2Proof.Machine

@[simp] theorem finalOutcome_next (s : State) : finalOutcome (.next s) = .next (finalState s) := rfl
@[simp] theorem finalOutcome_fault (f : Fault) : finalOutcome (.fault f) = .fault f := rfl
@[simp] theorem finalOutcome_refused (r : Refusal) : finalOutcome (.refused r) = .refused r := rfl

@[simp] theorem finalState_initDone (s : State) : (finalState s).initDone = s.initDone := rfl
@[simp] theorem finalState_bind (s : State) : (finalState s).bind = s.bind := rfl
@[simp] theorem finalState_bt (s : State) : (finalState s).bt = s.bt := rfl
@[simp] theorem finalState_zs (s : State) : (finalState s).zs = s.zs := rfl
@[simp] theorem finalState_zl (s : State) : (finalState s).zl = s.zl := rfl
@[simp] theorem finalState_ph (s : State) : (finalState s).ph = s.ph := rfl
@[simp] theorem finalState_cw (s : State) : (finalState s).cw = s.cw := rfl
@[simp] theorem finalState_a (s : State) : (finalState s).a = s.a := rfl
@[simp] theorem finalState_n (s : State) : (finalState s).n = s.n := rfl
@[simp] theorem finalState_seed (s : State) : (finalState s).seed = s.seed := rfl
@[simp] theorem finalState_res (s : State) : (finalState s).res = s.res := rfl
@[simp] theorem finalState_st (s : State) : (finalState s).st = s.st := rfl
@[simp] theorem finalState_hwCap (s : State) : (finalState s).hwCap = s.hwCap := rfl
@[simp] theorem finalState_aw (s : State) : (finalState s).aw = s.aw := rfl
@[simp] theorem finalState_mem (s : State) : (finalState s).mem = s.mem := rfl
@[simp] theorem finalState_cwPending (s : State) : (finalState s).cwPending = s.cwPending := rfl
@[simp] theorem finalState_resValid (s : State) : (finalState s).resValid = s.resValid := rfl
@[simp] theorem finalState_micro (s : State) : (finalState s).micro = s.micro := rfl

/-- Two states are the same to a claim about a final state exactly when they agree on everything but `ACC0`, `ACC1`,
`ACC2`, `NEXT`, `LEN`, `MEVEN`, `MODD` and `scratch`. -/
theorem finalState_eq_iff (s t : State) : finalState s = finalState t ↔
    s = { t with
      acc0 := s.acc0, acc1 := s.acc1, acc2 := s.acc2, next := s.next, len := s.len
      meven := s.meven, modd := s.modd, scratch := s.scratch } := by
  cases s
  cases t
  simp [finalState]

end Sys2Proof.Machine
end

