-- ==== Sys2Proof/Laws/State.lean ====
section
/-! SUPPORT. One lemma per field per update of State, so that no proof unfolds a record update. -/

namespace Sys2Proof.Machine

/-! ## setByteTable -/

@[simp] theorem setByteTable_initDone (t : ByteTable) (s : State) : (setByteTable t s).initDone = s.initDone := rfl
@[simp] theorem setByteTable_bind (t : ByteTable) (s : State) : (setByteTable t s).bind = s.bind := rfl
@[simp] theorem setByteTable_bt (t : ByteTable) (s : State) : (setByteTable t s).bt = some t := rfl
@[simp] theorem setByteTable_zs (t : ByteTable) (s : State) : (setByteTable t s).zs = s.zs := rfl
@[simp] theorem setByteTable_zl (t : ByteTable) (s : State) : (setByteTable t s).zl = s.zl := rfl
@[simp] theorem setByteTable_acc0 (t : ByteTable) (s : State) : (setByteTable t s).acc0 = s.acc0 := rfl
@[simp] theorem setByteTable_acc1 (t : ByteTable) (s : State) : (setByteTable t s).acc1 = s.acc1 := rfl
@[simp] theorem setByteTable_acc2 (t : ByteTable) (s : State) : (setByteTable t s).acc2 = s.acc2 := rfl
@[simp] theorem setByteTable_next (t : ByteTable) (s : State) : (setByteTable t s).next = s.next := rfl
@[simp] theorem setByteTable_len (t : ByteTable) (s : State) : (setByteTable t s).len = s.len := rfl
@[simp] theorem setByteTable_ph (t : ByteTable) (s : State) : (setByteTable t s).ph = s.ph := rfl
@[simp] theorem setByteTable_meven (t : ByteTable) (s : State) : (setByteTable t s).meven = s.meven := rfl
@[simp] theorem setByteTable_modd (t : ByteTable) (s : State) : (setByteTable t s).modd = s.modd := rfl
@[simp] theorem setByteTable_scratch (t : ByteTable) (s : State) : (setByteTable t s).scratch = s.scratch := rfl
@[simp] theorem setByteTable_cw (t : ByteTable) (s : State) : (setByteTable t s).cw = s.cw := rfl
@[simp] theorem setByteTable_a (t : ByteTable) (s : State) : (setByteTable t s).a = s.a := rfl
@[simp] theorem setByteTable_n (t : ByteTable) (s : State) : (setByteTable t s).n = s.n := rfl
@[simp] theorem setByteTable_seed (t : ByteTable) (s : State) : (setByteTable t s).seed = s.seed := rfl
@[simp] theorem setByteTable_res (t : ByteTable) (s : State) : (setByteTable t s).res = s.res := rfl
@[simp] theorem setByteTable_st (t : ByteTable) (s : State) : (setByteTable t s).st = s.st := rfl
@[simp] theorem setByteTable_hwCap (t : ByteTable) (s : State) : (setByteTable t s).hwCap = s.hwCap := rfl
@[simp] theorem setByteTable_aw (t : ByteTable) (s : State) : (setByteTable t s).aw = s.aw := rfl
@[simp] theorem setByteTable_mem (t : ByteTable) (s : State) : (setByteTable t s).mem = s.mem := rfl
@[simp] theorem setByteTable_cwPending (t : ByteTable) (s : State) : (setByteTable t s).cwPending = s.cwPending := rfl
@[simp] theorem setByteTable_resValid (t : ByteTable) (s : State) : (setByteTable t s).resValid = s.resValid := rfl
@[simp] theorem setByteTable_micro (t : ByteTable) (s : State) : (setByteTable t s).micro = s.micro := rfl

/-! ## setOdd -/

@[simp] theorem setOdd_initDone (m : Matrix) (s : State) : (setOdd m s).initDone = s.initDone := rfl
@[simp] theorem setOdd_bind (m : Matrix) (s : State) : (setOdd m s).bind = s.bind := rfl
@[simp] theorem setOdd_bt (m : Matrix) (s : State) : (setOdd m s).bt = s.bt := rfl
@[simp] theorem setOdd_zs (m : Matrix) (s : State) : (setOdd m s).zs = s.zs := rfl
@[simp] theorem setOdd_zl (m : Matrix) (s : State) : (setOdd m s).zl = s.zl := rfl
@[simp] theorem setOdd_acc0 (m : Matrix) (s : State) : (setOdd m s).acc0 = s.acc0 := rfl
@[simp] theorem setOdd_acc1 (m : Matrix) (s : State) : (setOdd m s).acc1 = s.acc1 := rfl
@[simp] theorem setOdd_acc2 (m : Matrix) (s : State) : (setOdd m s).acc2 = s.acc2 := rfl
@[simp] theorem setOdd_next (m : Matrix) (s : State) : (setOdd m s).next = s.next := rfl
@[simp] theorem setOdd_len (m : Matrix) (s : State) : (setOdd m s).len = s.len := rfl
@[simp] theorem setOdd_ph (m : Matrix) (s : State) : (setOdd m s).ph = s.ph := rfl
@[simp] theorem setOdd_meven (m : Matrix) (s : State) : (setOdd m s).meven = s.meven := rfl
@[simp] theorem setOdd_modd (m : Matrix) (s : State) : (setOdd m s).modd = some m := rfl
@[simp] theorem setOdd_scratch (m : Matrix) (s : State) : (setOdd m s).scratch = .odd := rfl
@[simp] theorem setOdd_cw (m : Matrix) (s : State) : (setOdd m s).cw = s.cw := rfl
@[simp] theorem setOdd_a (m : Matrix) (s : State) : (setOdd m s).a = s.a := rfl
@[simp] theorem setOdd_n (m : Matrix) (s : State) : (setOdd m s).n = s.n := rfl
@[simp] theorem setOdd_seed (m : Matrix) (s : State) : (setOdd m s).seed = s.seed := rfl
@[simp] theorem setOdd_res (m : Matrix) (s : State) : (setOdd m s).res = s.res := rfl
@[simp] theorem setOdd_st (m : Matrix) (s : State) : (setOdd m s).st = s.st := rfl
@[simp] theorem setOdd_hwCap (m : Matrix) (s : State) : (setOdd m s).hwCap = s.hwCap := rfl
@[simp] theorem setOdd_aw (m : Matrix) (s : State) : (setOdd m s).aw = s.aw := rfl
@[simp] theorem setOdd_mem (m : Matrix) (s : State) : (setOdd m s).mem = s.mem := rfl
@[simp] theorem setOdd_cwPending (m : Matrix) (s : State) : (setOdd m s).cwPending = s.cwPending := rfl
@[simp] theorem setOdd_resValid (m : Matrix) (s : State) : (setOdd m s).resValid = s.resValid := rfl
@[simp] theorem setOdd_micro (m : Matrix) (s : State) : (setOdd m s).micro = s.micro := rfl

/-! ## setEven -/

@[simp] theorem setEven_initDone (m : Matrix) (s : State) : (setEven m s).initDone = s.initDone := rfl
@[simp] theorem setEven_bind (m : Matrix) (s : State) : (setEven m s).bind = s.bind := rfl
@[simp] theorem setEven_bt (m : Matrix) (s : State) : (setEven m s).bt = s.bt := rfl
@[simp] theorem setEven_zs (m : Matrix) (s : State) : (setEven m s).zs = s.zs := rfl
@[simp] theorem setEven_zl (m : Matrix) (s : State) : (setEven m s).zl = s.zl := rfl
@[simp] theorem setEven_acc0 (m : Matrix) (s : State) : (setEven m s).acc0 = s.acc0 := rfl
@[simp] theorem setEven_acc1 (m : Matrix) (s : State) : (setEven m s).acc1 = s.acc1 := rfl
@[simp] theorem setEven_acc2 (m : Matrix) (s : State) : (setEven m s).acc2 = s.acc2 := rfl
@[simp] theorem setEven_next (m : Matrix) (s : State) : (setEven m s).next = s.next := rfl
@[simp] theorem setEven_len (m : Matrix) (s : State) : (setEven m s).len = s.len := rfl
@[simp] theorem setEven_ph (m : Matrix) (s : State) : (setEven m s).ph = s.ph := rfl
@[simp] theorem setEven_meven (m : Matrix) (s : State) : (setEven m s).meven = some m := rfl
@[simp] theorem setEven_modd (m : Matrix) (s : State) : (setEven m s).modd = s.modd := rfl
@[simp] theorem setEven_scratch (m : Matrix) (s : State) : (setEven m s).scratch = .even := rfl
@[simp] theorem setEven_cw (m : Matrix) (s : State) : (setEven m s).cw = s.cw := rfl
@[simp] theorem setEven_a (m : Matrix) (s : State) : (setEven m s).a = s.a := rfl
@[simp] theorem setEven_n (m : Matrix) (s : State) : (setEven m s).n = s.n := rfl
@[simp] theorem setEven_seed (m : Matrix) (s : State) : (setEven m s).seed = s.seed := rfl
@[simp] theorem setEven_res (m : Matrix) (s : State) : (setEven m s).res = s.res := rfl
@[simp] theorem setEven_st (m : Matrix) (s : State) : (setEven m s).st = s.st := rfl
@[simp] theorem setEven_hwCap (m : Matrix) (s : State) : (setEven m s).hwCap = s.hwCap := rfl
@[simp] theorem setEven_aw (m : Matrix) (s : State) : (setEven m s).aw = s.aw := rfl
@[simp] theorem setEven_mem (m : Matrix) (s : State) : (setEven m s).mem = s.mem := rfl
@[simp] theorem setEven_cwPending (m : Matrix) (s : State) : (setEven m s).cwPending = s.cwPending := rfl
@[simp] theorem setEven_resValid (m : Matrix) (s : State) : (setEven m s).resValid = s.resValid := rfl
@[simp] theorem setEven_micro (m : Matrix) (s : State) : (setEven m s).micro = s.micro := rfl

/-! ## setAcc0 -/

@[simp] theorem setAcc0_initDone (v : U32) (s : State) : (setAcc0 v s).initDone = s.initDone := rfl
@[simp] theorem setAcc0_bind (v : U32) (s : State) : (setAcc0 v s).bind = s.bind := rfl
@[simp] theorem setAcc0_bt (v : U32) (s : State) : (setAcc0 v s).bt = s.bt := rfl
@[simp] theorem setAcc0_zs (v : U32) (s : State) : (setAcc0 v s).zs = s.zs := rfl
@[simp] theorem setAcc0_zl (v : U32) (s : State) : (setAcc0 v s).zl = s.zl := rfl
@[simp] theorem setAcc0_acc0 (v : U32) (s : State) : (setAcc0 v s).acc0 = v := rfl
@[simp] theorem setAcc0_acc1 (v : U32) (s : State) : (setAcc0 v s).acc1 = s.acc1 := rfl
@[simp] theorem setAcc0_acc2 (v : U32) (s : State) : (setAcc0 v s).acc2 = s.acc2 := rfl
@[simp] theorem setAcc0_next (v : U32) (s : State) : (setAcc0 v s).next = s.next := rfl
@[simp] theorem setAcc0_len (v : U32) (s : State) : (setAcc0 v s).len = s.len := rfl
@[simp] theorem setAcc0_ph (v : U32) (s : State) : (setAcc0 v s).ph = s.ph := rfl
@[simp] theorem setAcc0_meven (v : U32) (s : State) : (setAcc0 v s).meven = s.meven := rfl
@[simp] theorem setAcc0_modd (v : U32) (s : State) : (setAcc0 v s).modd = s.modd := rfl
@[simp] theorem setAcc0_scratch (v : U32) (s : State) : (setAcc0 v s).scratch = s.scratch := rfl
@[simp] theorem setAcc0_cw (v : U32) (s : State) : (setAcc0 v s).cw = s.cw := rfl
@[simp] theorem setAcc0_a (v : U32) (s : State) : (setAcc0 v s).a = s.a := rfl
@[simp] theorem setAcc0_n (v : U32) (s : State) : (setAcc0 v s).n = s.n := rfl
@[simp] theorem setAcc0_seed (v : U32) (s : State) : (setAcc0 v s).seed = s.seed := rfl
@[simp] theorem setAcc0_res (v : U32) (s : State) : (setAcc0 v s).res = s.res := rfl
@[simp] theorem setAcc0_st (v : U32) (s : State) : (setAcc0 v s).st = s.st := rfl
@[simp] theorem setAcc0_hwCap (v : U32) (s : State) : (setAcc0 v s).hwCap = s.hwCap := rfl
@[simp] theorem setAcc0_aw (v : U32) (s : State) : (setAcc0 v s).aw = s.aw := rfl
@[simp] theorem setAcc0_mem (v : U32) (s : State) : (setAcc0 v s).mem = s.mem := rfl
@[simp] theorem setAcc0_cwPending (v : U32) (s : State) : (setAcc0 v s).cwPending = s.cwPending := rfl
@[simp] theorem setAcc0_resValid (v : U32) (s : State) : (setAcc0 v s).resValid = s.resValid := rfl
@[simp] theorem setAcc0_micro (v : U32) (s : State) : (setAcc0 v s).micro = s.micro := rfl

/-! ## setAcc1 -/

@[simp] theorem setAcc1_initDone (v : U32) (s : State) : (setAcc1 v s).initDone = s.initDone := rfl
@[simp] theorem setAcc1_bind (v : U32) (s : State) : (setAcc1 v s).bind = s.bind := rfl
@[simp] theorem setAcc1_bt (v : U32) (s : State) : (setAcc1 v s).bt = s.bt := rfl
@[simp] theorem setAcc1_zs (v : U32) (s : State) : (setAcc1 v s).zs = s.zs := rfl
@[simp] theorem setAcc1_zl (v : U32) (s : State) : (setAcc1 v s).zl = s.zl := rfl
@[simp] theorem setAcc1_acc0 (v : U32) (s : State) : (setAcc1 v s).acc0 = s.acc0 := rfl
@[simp] theorem setAcc1_acc1 (v : U32) (s : State) : (setAcc1 v s).acc1 = v := rfl
@[simp] theorem setAcc1_acc2 (v : U32) (s : State) : (setAcc1 v s).acc2 = s.acc2 := rfl
@[simp] theorem setAcc1_next (v : U32) (s : State) : (setAcc1 v s).next = s.next := rfl
@[simp] theorem setAcc1_len (v : U32) (s : State) : (setAcc1 v s).len = s.len := rfl
@[simp] theorem setAcc1_ph (v : U32) (s : State) : (setAcc1 v s).ph = s.ph := rfl
@[simp] theorem setAcc1_meven (v : U32) (s : State) : (setAcc1 v s).meven = s.meven := rfl
@[simp] theorem setAcc1_modd (v : U32) (s : State) : (setAcc1 v s).modd = s.modd := rfl
@[simp] theorem setAcc1_scratch (v : U32) (s : State) : (setAcc1 v s).scratch = s.scratch := rfl
@[simp] theorem setAcc1_cw (v : U32) (s : State) : (setAcc1 v s).cw = s.cw := rfl
@[simp] theorem setAcc1_a (v : U32) (s : State) : (setAcc1 v s).a = s.a := rfl
@[simp] theorem setAcc1_n (v : U32) (s : State) : (setAcc1 v s).n = s.n := rfl
@[simp] theorem setAcc1_seed (v : U32) (s : State) : (setAcc1 v s).seed = s.seed := rfl
@[simp] theorem setAcc1_res (v : U32) (s : State) : (setAcc1 v s).res = s.res := rfl
@[simp] theorem setAcc1_st (v : U32) (s : State) : (setAcc1 v s).st = s.st := rfl
@[simp] theorem setAcc1_hwCap (v : U32) (s : State) : (setAcc1 v s).hwCap = s.hwCap := rfl
@[simp] theorem setAcc1_aw (v : U32) (s : State) : (setAcc1 v s).aw = s.aw := rfl
@[simp] theorem setAcc1_mem (v : U32) (s : State) : (setAcc1 v s).mem = s.mem := rfl
@[simp] theorem setAcc1_cwPending (v : U32) (s : State) : (setAcc1 v s).cwPending = s.cwPending := rfl
@[simp] theorem setAcc1_resValid (v : U32) (s : State) : (setAcc1 v s).resValid = s.resValid := rfl
@[simp] theorem setAcc1_micro (v : U32) (s : State) : (setAcc1 v s).micro = s.micro := rfl

/-! ## setAcc2 -/

@[simp] theorem setAcc2_initDone (v : U32) (s : State) : (setAcc2 v s).initDone = s.initDone := rfl
@[simp] theorem setAcc2_bind (v : U32) (s : State) : (setAcc2 v s).bind = s.bind := rfl
@[simp] theorem setAcc2_bt (v : U32) (s : State) : (setAcc2 v s).bt = s.bt := rfl
@[simp] theorem setAcc2_zs (v : U32) (s : State) : (setAcc2 v s).zs = s.zs := rfl
@[simp] theorem setAcc2_zl (v : U32) (s : State) : (setAcc2 v s).zl = s.zl := rfl
@[simp] theorem setAcc2_acc0 (v : U32) (s : State) : (setAcc2 v s).acc0 = s.acc0 := rfl
@[simp] theorem setAcc2_acc1 (v : U32) (s : State) : (setAcc2 v s).acc1 = s.acc1 := rfl
@[simp] theorem setAcc2_acc2 (v : U32) (s : State) : (setAcc2 v s).acc2 = v := rfl
@[simp] theorem setAcc2_next (v : U32) (s : State) : (setAcc2 v s).next = s.next := rfl
@[simp] theorem setAcc2_len (v : U32) (s : State) : (setAcc2 v s).len = s.len := rfl
@[simp] theorem setAcc2_ph (v : U32) (s : State) : (setAcc2 v s).ph = s.ph := rfl
@[simp] theorem setAcc2_meven (v : U32) (s : State) : (setAcc2 v s).meven = s.meven := rfl
@[simp] theorem setAcc2_modd (v : U32) (s : State) : (setAcc2 v s).modd = s.modd := rfl
@[simp] theorem setAcc2_scratch (v : U32) (s : State) : (setAcc2 v s).scratch = s.scratch := rfl
@[simp] theorem setAcc2_cw (v : U32) (s : State) : (setAcc2 v s).cw = s.cw := rfl
@[simp] theorem setAcc2_a (v : U32) (s : State) : (setAcc2 v s).a = s.a := rfl
@[simp] theorem setAcc2_n (v : U32) (s : State) : (setAcc2 v s).n = s.n := rfl
@[simp] theorem setAcc2_seed (v : U32) (s : State) : (setAcc2 v s).seed = s.seed := rfl
@[simp] theorem setAcc2_res (v : U32) (s : State) : (setAcc2 v s).res = s.res := rfl
@[simp] theorem setAcc2_st (v : U32) (s : State) : (setAcc2 v s).st = s.st := rfl
@[simp] theorem setAcc2_hwCap (v : U32) (s : State) : (setAcc2 v s).hwCap = s.hwCap := rfl
@[simp] theorem setAcc2_aw (v : U32) (s : State) : (setAcc2 v s).aw = s.aw := rfl
@[simp] theorem setAcc2_mem (v : U32) (s : State) : (setAcc2 v s).mem = s.mem := rfl
@[simp] theorem setAcc2_cwPending (v : U32) (s : State) : (setAcc2 v s).cwPending = s.cwPending := rfl
@[simp] theorem setAcc2_resValid (v : U32) (s : State) : (setAcc2 v s).resValid = s.resValid := rfl
@[simp] theorem setAcc2_micro (v : U32) (s : State) : (setAcc2 v s).micro = s.micro := rfl

/-! ## enterPhase -/

@[simp] theorem enterPhase_initDone (ph : Phase) (s : State) : (enterPhase ph s).initDone = s.initDone := rfl
@[simp] theorem enterPhase_bind (ph : Phase) (s : State) : (enterPhase ph s).bind = s.bind := rfl
@[simp] theorem enterPhase_bt (ph : Phase) (s : State) : (enterPhase ph s).bt = s.bt := rfl
@[simp] theorem enterPhase_zs (ph : Phase) (s : State) : (enterPhase ph s).zs = s.zs := rfl
@[simp] theorem enterPhase_zl (ph : Phase) (s : State) : (enterPhase ph s).zl = s.zl := rfl
@[simp] theorem enterPhase_acc0 (ph : Phase) (s : State) : (enterPhase ph s).acc0 = s.acc0 := rfl
@[simp] theorem enterPhase_acc1 (ph : Phase) (s : State) : (enterPhase ph s).acc1 = s.acc1 := rfl
@[simp] theorem enterPhase_acc2 (ph : Phase) (s : State) : (enterPhase ph s).acc2 = s.acc2 := rfl
@[simp] theorem enterPhase_next (ph : Phase) (s : State) : (enterPhase ph s).next = s.next := rfl
@[simp] theorem enterPhase_len (ph : Phase) (s : State) : (enterPhase ph s).len = s.len := rfl
@[simp] theorem enterPhase_ph (ph : Phase) (s : State) : (enterPhase ph s).ph = ph := rfl
@[simp] theorem enterPhase_meven (ph : Phase) (s : State) : (enterPhase ph s).meven = s.meven := rfl
@[simp] theorem enterPhase_modd (ph : Phase) (s : State) : (enterPhase ph s).modd = s.modd := rfl
@[simp] theorem enterPhase_scratch (ph : Phase) (s : State) : (enterPhase ph s).scratch = s.scratch := rfl
@[simp] theorem enterPhase_cw (ph : Phase) (s : State) : (enterPhase ph s).cw = s.cw := rfl
@[simp] theorem enterPhase_a (ph : Phase) (s : State) : (enterPhase ph s).a = s.a := rfl
@[simp] theorem enterPhase_n (ph : Phase) (s : State) : (enterPhase ph s).n = s.n := rfl
@[simp] theorem enterPhase_seed (ph : Phase) (s : State) : (enterPhase ph s).seed = s.seed := rfl
@[simp] theorem enterPhase_res (ph : Phase) (s : State) : (enterPhase ph s).res = s.res := rfl
@[simp] theorem enterPhase_st (ph : Phase) (s : State) : (enterPhase ph s).st = s.st := rfl
@[simp] theorem enterPhase_hwCap (ph : Phase) (s : State) : (enterPhase ph s).hwCap = s.hwCap := rfl
@[simp] theorem enterPhase_aw (ph : Phase) (s : State) : (enterPhase ph s).aw = s.aw := rfl
@[simp] theorem enterPhase_mem (ph : Phase) (s : State) : (enterPhase ph s).mem = s.mem := rfl
@[simp] theorem enterPhase_cwPending (ph : Phase) (s : State) : (enterPhase ph s).cwPending = s.cwPending := rfl
@[simp] theorem enterPhase_resValid (ph : Phase) (s : State) : (enterPhase ph s).resValid = s.resValid := rfl
@[simp] theorem enterPhase_micro (ph : Phase) (s : State) : (enterPhase ph s).micro = s.micro := rfl

/-! ## setBind -/

@[simp] theorem setBind_initDone (b : Binding) (s : State) : (setBind b s).initDone = s.initDone := rfl
@[simp] theorem setBind_bind (b : Binding) (s : State) : (setBind b s).bind = b := rfl
@[simp] theorem setBind_bt (b : Binding) (s : State) : (setBind b s).bt = s.bt := rfl
@[simp] theorem setBind_zs (b : Binding) (s : State) : (setBind b s).zs = s.zs := rfl
@[simp] theorem setBind_zl (b : Binding) (s : State) : (setBind b s).zl = s.zl := rfl
@[simp] theorem setBind_acc0 (b : Binding) (s : State) : (setBind b s).acc0 = s.acc0 := rfl
@[simp] theorem setBind_acc1 (b : Binding) (s : State) : (setBind b s).acc1 = s.acc1 := rfl
@[simp] theorem setBind_acc2 (b : Binding) (s : State) : (setBind b s).acc2 = s.acc2 := rfl
@[simp] theorem setBind_next (b : Binding) (s : State) : (setBind b s).next = s.next := rfl
@[simp] theorem setBind_len (b : Binding) (s : State) : (setBind b s).len = s.len := rfl
@[simp] theorem setBind_ph (b : Binding) (s : State) : (setBind b s).ph = s.ph := rfl
@[simp] theorem setBind_meven (b : Binding) (s : State) : (setBind b s).meven = s.meven := rfl
@[simp] theorem setBind_modd (b : Binding) (s : State) : (setBind b s).modd = s.modd := rfl
@[simp] theorem setBind_scratch (b : Binding) (s : State) : (setBind b s).scratch = s.scratch := rfl
@[simp] theorem setBind_cw (b : Binding) (s : State) : (setBind b s).cw = s.cw := rfl
@[simp] theorem setBind_a (b : Binding) (s : State) : (setBind b s).a = s.a := rfl
@[simp] theorem setBind_n (b : Binding) (s : State) : (setBind b s).n = s.n := rfl
@[simp] theorem setBind_seed (b : Binding) (s : State) : (setBind b s).seed = s.seed := rfl
@[simp] theorem setBind_res (b : Binding) (s : State) : (setBind b s).res = s.res := rfl
@[simp] theorem setBind_st (b : Binding) (s : State) : (setBind b s).st = s.st := rfl
@[simp] theorem setBind_hwCap (b : Binding) (s : State) : (setBind b s).hwCap = s.hwCap := rfl
@[simp] theorem setBind_aw (b : Binding) (s : State) : (setBind b s).aw = s.aw := rfl
@[simp] theorem setBind_mem (b : Binding) (s : State) : (setBind b s).mem = s.mem := rfl
@[simp] theorem setBind_cwPending (b : Binding) (s : State) : (setBind b s).cwPending = s.cwPending := rfl
@[simp] theorem setBind_resValid (b : Binding) (s : State) : (setBind b s).resValid = s.resValid := rfl
@[simp] theorem setBind_micro (b : Binding) (s : State) : (setBind b s).micro = s.micro := rfl

/-! ## setInitDone -/

@[simp] theorem setInitDone_initDone (s : State) : (setInitDone s).initDone = true := rfl
@[simp] theorem setInitDone_bind (s : State) : (setInitDone s).bind = s.bind := rfl
@[simp] theorem setInitDone_bt (s : State) : (setInitDone s).bt = s.bt := rfl
@[simp] theorem setInitDone_zs (s : State) : (setInitDone s).zs = s.zs := rfl
@[simp] theorem setInitDone_zl (s : State) : (setInitDone s).zl = s.zl := rfl
@[simp] theorem setInitDone_acc0 (s : State) : (setInitDone s).acc0 = s.acc0 := rfl
@[simp] theorem setInitDone_acc1 (s : State) : (setInitDone s).acc1 = s.acc1 := rfl
@[simp] theorem setInitDone_acc2 (s : State) : (setInitDone s).acc2 = s.acc2 := rfl
@[simp] theorem setInitDone_next (s : State) : (setInitDone s).next = s.next := rfl
@[simp] theorem setInitDone_len (s : State) : (setInitDone s).len = s.len := rfl
@[simp] theorem setInitDone_ph (s : State) : (setInitDone s).ph = s.ph := rfl
@[simp] theorem setInitDone_meven (s : State) : (setInitDone s).meven = s.meven := rfl
@[simp] theorem setInitDone_modd (s : State) : (setInitDone s).modd = s.modd := rfl
@[simp] theorem setInitDone_scratch (s : State) : (setInitDone s).scratch = s.scratch := rfl
@[simp] theorem setInitDone_cw (s : State) : (setInitDone s).cw = s.cw := rfl
@[simp] theorem setInitDone_a (s : State) : (setInitDone s).a = s.a := rfl
@[simp] theorem setInitDone_n (s : State) : (setInitDone s).n = s.n := rfl
@[simp] theorem setInitDone_seed (s : State) : (setInitDone s).seed = s.seed := rfl
@[simp] theorem setInitDone_res (s : State) : (setInitDone s).res = s.res := rfl
@[simp] theorem setInitDone_st (s : State) : (setInitDone s).st = s.st := rfl
@[simp] theorem setInitDone_hwCap (s : State) : (setInitDone s).hwCap = s.hwCap := rfl
@[simp] theorem setInitDone_aw (s : State) : (setInitDone s).aw = s.aw := rfl
@[simp] theorem setInitDone_mem (s : State) : (setInitDone s).mem = s.mem := rfl
@[simp] theorem setInitDone_cwPending (s : State) : (setInitDone s).cwPending = s.cwPending := rfl
@[simp] theorem setInitDone_resValid (s : State) : (setInitDone s).resValid = s.resValid := rfl
@[simp] theorem setInitDone_micro (s : State) : (setInitDone s).micro = s.micro := rfl

/-! ## setOut -/

@[simp] theorem setOut_initDone (v : U32) (s : State) : (setOut v s).initDone = s.initDone := rfl
@[simp] theorem setOut_bind (v : U32) (s : State) : (setOut v s).bind = s.bind := rfl
@[simp] theorem setOut_bt (v : U32) (s : State) : (setOut v s).bt = s.bt := rfl
@[simp] theorem setOut_zs (v : U32) (s : State) : (setOut v s).zs = s.zs := rfl
@[simp] theorem setOut_zl (v : U32) (s : State) : (setOut v s).zl = s.zl := rfl
@[simp] theorem setOut_acc0 (v : U32) (s : State) : (setOut v s).acc0 = s.acc0 := rfl
@[simp] theorem setOut_acc1 (v : U32) (s : State) : (setOut v s).acc1 = s.acc1 := rfl
@[simp] theorem setOut_acc2 (v : U32) (s : State) : (setOut v s).acc2 = s.acc2 := rfl
@[simp] theorem setOut_next (v : U32) (s : State) : (setOut v s).next = s.next := rfl
@[simp] theorem setOut_len (v : U32) (s : State) : (setOut v s).len = s.len := rfl
@[simp] theorem setOut_ph (v : U32) (s : State) : (setOut v s).ph = s.ph := rfl
@[simp] theorem setOut_meven (v : U32) (s : State) : (setOut v s).meven = s.meven := rfl
@[simp] theorem setOut_modd (v : U32) (s : State) : (setOut v s).modd = s.modd := rfl
@[simp] theorem setOut_scratch (v : U32) (s : State) : (setOut v s).scratch = s.scratch := rfl
@[simp] theorem setOut_cw (v : U32) (s : State) : (setOut v s).cw = s.cw := rfl
@[simp] theorem setOut_a (v : U32) (s : State) : (setOut v s).a = s.a := rfl
@[simp] theorem setOut_n (v : U32) (s : State) : (setOut v s).n = s.n := rfl
@[simp] theorem setOut_seed (v : U32) (s : State) : (setOut v s).seed = s.seed := rfl
@[simp] theorem setOut_res (v : U32) (s : State) : (setOut v s).res = s.res := rfl
@[simp] theorem setOut_st (v : U32) (s : State) : (setOut v s).st = s.st := rfl
@[simp] theorem setOut_hwCap (v : U32) (s : State) : (setOut v s).hwCap = s.hwCap := rfl
@[simp] theorem setOut_aw (v : U32) (s : State) : (setOut v s).aw = s.aw := rfl
@[simp] theorem setOut_mem (v : U32) (s : State) : (setOut v s).mem = s.mem := rfl
@[simp] theorem setOut_cwPending (v : U32) (s : State) : (setOut v s).cwPending = s.cwPending := rfl
@[simp] theorem setOut_resValid (v : U32) (s : State) : (setOut v s).resValid = s.resValid := rfl
@[simp] theorem setOut_micro (v : U32) (s : State) : (setOut v s).micro = { s.micro with out := v } := rfl

/-! ## loadOperands -/

@[simp] theorem loadOperands_initDone (s : State) : (loadOperands s).initDone = s.initDone := rfl
@[simp] theorem loadOperands_bind (s : State) : (loadOperands s).bind = s.bind := rfl
@[simp] theorem loadOperands_bt (s : State) : (loadOperands s).bt = s.bt := rfl
@[simp] theorem loadOperands_zs (s : State) : (loadOperands s).zs = s.zs := rfl
@[simp] theorem loadOperands_zl (s : State) : (loadOperands s).zl = s.zl := rfl
@[simp] theorem loadOperands_acc0 (s : State) : (loadOperands s).acc0 = s.seed ^^^ allOnes := rfl
@[simp] theorem loadOperands_acc1 (s : State) : (loadOperands s).acc1 = s.acc1 := rfl
@[simp] theorem loadOperands_acc2 (s : State) : (loadOperands s).acc2 = s.acc2 := rfl
@[simp] theorem loadOperands_next (s : State) : (loadOperands s).next = s.a := rfl
@[simp] theorem loadOperands_len (s : State) : (loadOperands s).len = s.n := rfl
@[simp] theorem loadOperands_ph (s : State) : (loadOperands s).ph = .p := rfl
@[simp] theorem loadOperands_meven (s : State) : (loadOperands s).meven = s.meven := rfl
@[simp] theorem loadOperands_modd (s : State) : (loadOperands s).modd = s.modd := rfl
@[simp] theorem loadOperands_scratch (s : State) : (loadOperands s).scratch = s.scratch := rfl
@[simp] theorem loadOperands_cw (s : State) : (loadOperands s).cw = s.cw := rfl
@[simp] theorem loadOperands_a (s : State) : (loadOperands s).a = s.a := rfl
@[simp] theorem loadOperands_n (s : State) : (loadOperands s).n = s.n := rfl
@[simp] theorem loadOperands_seed (s : State) : (loadOperands s).seed = s.seed := rfl
@[simp] theorem loadOperands_res (s : State) : (loadOperands s).res = s.res := rfl
@[simp] theorem loadOperands_st (s : State) : (loadOperands s).st = s.st := rfl
@[simp] theorem loadOperands_hwCap (s : State) : (loadOperands s).hwCap = s.hwCap := rfl
@[simp] theorem loadOperands_aw (s : State) : (loadOperands s).aw = s.aw := rfl
@[simp] theorem loadOperands_mem (s : State) : (loadOperands s).mem = s.mem := rfl
@[simp] theorem loadOperands_cwPending (s : State) : (loadOperands s).cwPending = s.cwPending := rfl
@[simp] theorem loadOperands_resValid (s : State) : (loadOperands s).resValid = s.resValid := rfl
@[simp] theorem loadOperands_micro (s : State) : (loadOperands s).micro = s.micro := rfl

/-! ## respond -/

@[simp] theorem respond_initDone (st : Status) (r : U32) (s : State) : (respond st r s).initDone = s.initDone := rfl
@[simp] theorem respond_bind (st : Status) (r : U32) (s : State) : (respond st r s).bind = s.bind := rfl
@[simp] theorem respond_bt (st : Status) (r : U32) (s : State) : (respond st r s).bt = s.bt := rfl
@[simp] theorem respond_zs (st : Status) (r : U32) (s : State) : (respond st r s).zs = s.zs := rfl
@[simp] theorem respond_zl (st : Status) (r : U32) (s : State) : (respond st r s).zl = s.zl := rfl
@[simp] theorem respond_acc0 (st : Status) (r : U32) (s : State) : (respond st r s).acc0 = s.acc0 := rfl
@[simp] theorem respond_acc1 (st : Status) (r : U32) (s : State) : (respond st r s).acc1 = s.acc1 := rfl
@[simp] theorem respond_acc2 (st : Status) (r : U32) (s : State) : (respond st r s).acc2 = s.acc2 := rfl
@[simp] theorem respond_next (st : Status) (r : U32) (s : State) : (respond st r s).next = s.next := rfl
@[simp] theorem respond_len (st : Status) (r : U32) (s : State) : (respond st r s).len = s.len := rfl
@[simp] theorem respond_ph (st : Status) (r : U32) (s : State) : (respond st r s).ph = .idle := rfl
@[simp] theorem respond_meven (st : Status) (r : U32) (s : State) : (respond st r s).meven = s.meven := rfl
@[simp] theorem respond_modd (st : Status) (r : U32) (s : State) : (respond st r s).modd = s.modd := rfl
@[simp] theorem respond_scratch (st : Status) (r : U32) (s : State) : (respond st r s).scratch = s.scratch := rfl
@[simp] theorem respond_cw (st : Status) (r : U32) (s : State) : (respond st r s).cw = s.cw := rfl
@[simp] theorem respond_a (st : Status) (r : U32) (s : State) : (respond st r s).a = s.a := rfl
@[simp] theorem respond_n (st : Status) (r : U32) (s : State) : (respond st r s).n = s.n := rfl
@[simp] theorem respond_seed (st : Status) (r : U32) (s : State) : (respond st r s).seed = s.seed := rfl
@[simp] theorem respond_res (st : Status) (r : U32) (s : State) : (respond st r s).res = r := rfl
@[simp] theorem respond_st (st : Status) (r : U32) (s : State) : (respond st r s).st = st := rfl
@[simp] theorem respond_hwCap (st : Status) (r : U32) (s : State) : (respond st r s).hwCap = s.hwCap := rfl
@[simp] theorem respond_aw (st : Status) (r : U32) (s : State) : (respond st r s).aw = s.aw := rfl
@[simp] theorem respond_mem (st : Status) (r : U32) (s : State) : (respond st r s).mem = s.mem := rfl
@[simp] theorem respond_cwPending (st : Status) (r : U32) (s : State) : (respond st r s).cwPending = s.cwPending := rfl
@[simp] theorem respond_resValid (st : Status) (r : U32) (s : State) : (respond st r s).resValid = true := rfl
@[simp] theorem respond_micro (st : Status) (r : U32) (s : State) : (respond st r s).micro = s.micro := rfl

/-! ## takeCommand -/

@[simp] theorem takeCommand_initDone (s : State) : (takeCommand s).initDone = s.initDone := rfl
@[simp] theorem takeCommand_bind (s : State) : (takeCommand s).bind = s.bind := rfl
@[simp] theorem takeCommand_bt (s : State) : (takeCommand s).bt = s.bt := rfl
@[simp] theorem takeCommand_zs (s : State) : (takeCommand s).zs = s.zs := rfl
@[simp] theorem takeCommand_zl (s : State) : (takeCommand s).zl = s.zl := rfl
@[simp] theorem takeCommand_acc0 (s : State) : (takeCommand s).acc0 = s.acc0 := rfl
@[simp] theorem takeCommand_acc1 (s : State) : (takeCommand s).acc1 = s.acc1 := rfl
@[simp] theorem takeCommand_acc2 (s : State) : (takeCommand s).acc2 = s.acc2 := rfl
@[simp] theorem takeCommand_next (s : State) : (takeCommand s).next = s.next := rfl
@[simp] theorem takeCommand_len (s : State) : (takeCommand s).len = s.len := rfl
@[simp] theorem takeCommand_ph (s : State) : (takeCommand s).ph = s.ph := rfl
@[simp] theorem takeCommand_meven (s : State) : (takeCommand s).meven = s.meven := rfl
@[simp] theorem takeCommand_modd (s : State) : (takeCommand s).modd = s.modd := rfl
@[simp] theorem takeCommand_scratch (s : State) : (takeCommand s).scratch = s.scratch := rfl
@[simp] theorem takeCommand_cw (s : State) : (takeCommand s).cw = s.cw := rfl
@[simp] theorem takeCommand_a (s : State) : (takeCommand s).a = s.a := rfl
@[simp] theorem takeCommand_n (s : State) : (takeCommand s).n = s.n := rfl
@[simp] theorem takeCommand_seed (s : State) : (takeCommand s).seed = s.seed := rfl
@[simp] theorem takeCommand_res (s : State) : (takeCommand s).res = s.res := rfl
@[simp] theorem takeCommand_st (s : State) : (takeCommand s).st = s.st := rfl
@[simp] theorem takeCommand_hwCap (s : State) : (takeCommand s).hwCap = s.hwCap := rfl
@[simp] theorem takeCommand_aw (s : State) : (takeCommand s).aw = s.aw := rfl
@[simp] theorem takeCommand_mem (s : State) : (takeCommand s).mem = s.mem := rfl
@[simp] theorem takeCommand_cwPending (s : State) : (takeCommand s).cwPending = false := rfl
@[simp] theorem takeCommand_resValid (s : State) : (takeCommand s).resValid = s.resValid := rfl
@[simp] theorem takeCommand_micro (s : State) : (takeCommand s).micro = s.micro := rfl

/-! ## takeMicro -/

@[simp] theorem takeMicro_initDone (s : State) : (takeMicro s).initDone = s.initDone := rfl
@[simp] theorem takeMicro_bind (s : State) : (takeMicro s).bind = s.bind := rfl
@[simp] theorem takeMicro_bt (s : State) : (takeMicro s).bt = s.bt := rfl
@[simp] theorem takeMicro_zs (s : State) : (takeMicro s).zs = s.zs := rfl
@[simp] theorem takeMicro_zl (s : State) : (takeMicro s).zl = s.zl := rfl
@[simp] theorem takeMicro_acc0 (s : State) : (takeMicro s).acc0 = s.acc0 := rfl
@[simp] theorem takeMicro_acc1 (s : State) : (takeMicro s).acc1 = s.acc1 := rfl
@[simp] theorem takeMicro_acc2 (s : State) : (takeMicro s).acc2 = s.acc2 := rfl
@[simp] theorem takeMicro_next (s : State) : (takeMicro s).next = s.next := rfl
@[simp] theorem takeMicro_len (s : State) : (takeMicro s).len = s.len := rfl
@[simp] theorem takeMicro_ph (s : State) : (takeMicro s).ph = s.ph := rfl
@[simp] theorem takeMicro_meven (s : State) : (takeMicro s).meven = s.meven := rfl
@[simp] theorem takeMicro_modd (s : State) : (takeMicro s).modd = s.modd := rfl
@[simp] theorem takeMicro_scratch (s : State) : (takeMicro s).scratch = s.scratch := rfl
@[simp] theorem takeMicro_cw (s : State) : (takeMicro s).cw = s.cw := rfl
@[simp] theorem takeMicro_a (s : State) : (takeMicro s).a = s.a := rfl
@[simp] theorem takeMicro_n (s : State) : (takeMicro s).n = s.n := rfl
@[simp] theorem takeMicro_seed (s : State) : (takeMicro s).seed = s.seed := rfl
@[simp] theorem takeMicro_res (s : State) : (takeMicro s).res = s.res := rfl
@[simp] theorem takeMicro_st (s : State) : (takeMicro s).st = s.st := rfl
@[simp] theorem takeMicro_hwCap (s : State) : (takeMicro s).hwCap = s.hwCap := rfl
@[simp] theorem takeMicro_aw (s : State) : (takeMicro s).aw = s.aw := rfl
@[simp] theorem takeMicro_mem (s : State) : (takeMicro s).mem = s.mem := rfl
@[simp] theorem takeMicro_cwPending (s : State) : (takeMicro s).cwPending = s.cwPending := rfl
@[simp] theorem takeMicro_resValid (s : State) : (takeMicro s).resValid = s.resValid := rfl
@[simp] theorem takeMicro_micro (s : State) : (takeMicro s).micro = { s.micro with slot := none } := rfl

/-! ## setShiftTable -/

@[simp] theorem setShiftTable_initDone (which : TableSel) (t : ShiftTable) (s : State) : (setShiftTable which t s).initDone = s.initDone := by
  cases which <;> rfl
@[simp] theorem setShiftTable_bind (which : TableSel) (t : ShiftTable) (s : State) : (setShiftTable which t s).bind = s.bind := by
  cases which <;> rfl
@[simp] theorem setShiftTable_bt (which : TableSel) (t : ShiftTable) (s : State) : (setShiftTable which t s).bt = s.bt := by
  cases which <;> rfl
@[simp] theorem setShiftTable_acc0 (which : TableSel) (t : ShiftTable) (s : State) : (setShiftTable which t s).acc0 = s.acc0 := by
  cases which <;> rfl
@[simp] theorem setShiftTable_acc1 (which : TableSel) (t : ShiftTable) (s : State) : (setShiftTable which t s).acc1 = s.acc1 := by
  cases which <;> rfl
@[simp] theorem setShiftTable_acc2 (which : TableSel) (t : ShiftTable) (s : State) : (setShiftTable which t s).acc2 = s.acc2 := by
  cases which <;> rfl
@[simp] theorem setShiftTable_next (which : TableSel) (t : ShiftTable) (s : State) : (setShiftTable which t s).next = s.next := by
  cases which <;> rfl
@[simp] theorem setShiftTable_len (which : TableSel) (t : ShiftTable) (s : State) : (setShiftTable which t s).len = s.len := by
  cases which <;> rfl
@[simp] theorem setShiftTable_ph (which : TableSel) (t : ShiftTable) (s : State) : (setShiftTable which t s).ph = s.ph := by
  cases which <;> rfl
@[simp] theorem setShiftTable_meven (which : TableSel) (t : ShiftTable) (s : State) : (setShiftTable which t s).meven = s.meven := by
  cases which <;> rfl
@[simp] theorem setShiftTable_modd (which : TableSel) (t : ShiftTable) (s : State) : (setShiftTable which t s).modd = s.modd := by
  cases which <;> rfl
@[simp] theorem setShiftTable_scratch (which : TableSel) (t : ShiftTable) (s : State) : (setShiftTable which t s).scratch = s.scratch := by
  cases which <;> rfl
@[simp] theorem setShiftTable_cw (which : TableSel) (t : ShiftTable) (s : State) : (setShiftTable which t s).cw = s.cw := by
  cases which <;> rfl
@[simp] theorem setShiftTable_a (which : TableSel) (t : ShiftTable) (s : State) : (setShiftTable which t s).a = s.a := by
  cases which <;> rfl
@[simp] theorem setShiftTable_n (which : TableSel) (t : ShiftTable) (s : State) : (setShiftTable which t s).n = s.n := by
  cases which <;> rfl
@[simp] theorem setShiftTable_seed (which : TableSel) (t : ShiftTable) (s : State) : (setShiftTable which t s).seed = s.seed := by
  cases which <;> rfl
@[simp] theorem setShiftTable_res (which : TableSel) (t : ShiftTable) (s : State) : (setShiftTable which t s).res = s.res := by
  cases which <;> rfl
@[simp] theorem setShiftTable_st (which : TableSel) (t : ShiftTable) (s : State) : (setShiftTable which t s).st = s.st := by
  cases which <;> rfl
@[simp] theorem setShiftTable_hwCap (which : TableSel) (t : ShiftTable) (s : State) : (setShiftTable which t s).hwCap = s.hwCap := by
  cases which <;> rfl
@[simp] theorem setShiftTable_aw (which : TableSel) (t : ShiftTable) (s : State) : (setShiftTable which t s).aw = s.aw := by
  cases which <;> rfl
@[simp] theorem setShiftTable_mem (which : TableSel) (t : ShiftTable) (s : State) : (setShiftTable which t s).mem = s.mem := by
  cases which <;> rfl
@[simp] theorem setShiftTable_cwPending (which : TableSel) (t : ShiftTable) (s : State) : (setShiftTable which t s).cwPending = s.cwPending := by
  cases which <;> rfl
@[simp] theorem setShiftTable_resValid (which : TableSel) (t : ShiftTable) (s : State) : (setShiftTable which t s).resValid = s.resValid := by
  cases which <;> rfl
@[simp] theorem setShiftTable_micro (which : TableSel) (t : ShiftTable) (s : State) : (setShiftTable which t s).micro = s.micro := by
  cases which <;> rfl

@[simp] theorem setShiftTable_short_zs (t : ShiftTable) (s : State) : (setShiftTable .short t s).zs = some t := rfl
@[simp] theorem setShiftTable_short_zl (t : ShiftTable) (s : State) : (setShiftTable .short t s).zl = s.zl := rfl
@[simp] theorem setShiftTable_long_zs (t : ShiftTable) (s : State) : (setShiftTable .long t s).zs = s.zs := rfl
@[simp] theorem setShiftTable_long_zl (t : ShiftTable) (s : State) : (setShiftTable .long t s).zl = some t := rfl

/-- The written table is the one then read. -/
@[simp] theorem shiftTable_setShiftTable_self (which : TableSel) (t : ShiftTable) (s : State) :
    shiftTable (setShiftTable which t s) which = some t := by
  cases which <;> rfl

end Sys2Proof.Machine
end

