-- ==== Sys2Proof/Laws/Memory.lean ====
section
/-! SUPPORT. Buffer memory: what a host write does to a later read, and that it keeps the canonical form. The engine
itself has no operation that writes it. -/

namespace Sys2Proof.Machine

@[simp] theorem Memory.read_nil (addr : Nat) : Memory.read [] addr = none := rfl

@[simp] theorem Memory.read_cons (k : Nat) (v : U8) (rest : List Host.Cell) (addr : Nat) :
    Memory.read ((k, v) :: rest) addr = if addr = k then some v else Memory.read rest addr := by
  rcases h : addr == k with _ | _
  · rw [if_neg (by simpa using h)]
    simp [Memory.read, List.lookup_cons, h]
  · rw [if_pos (by simpa using h)]
    simp [Memory.read, List.lookup_cons, h]

theorem Memory.wfFrom_mono {aw low low' : Nat} (h : low' ≤ low) (mem : List Host.Cell)
    (hw : Memory.wfFrom aw low mem = true) : Memory.wfFrom aw low' mem = true := by
  cases mem with
  | nil => rfl
  | cons c rest =>
    obtain ⟨k, v⟩ := c
    simp only [Memory.wfFrom, Bool.and_eq_true, decide_eq_true_eq] at hw ⊢
    exact ⟨⟨by omega, hw.1.2⟩, hw.2⟩

/-- Below the bound of the canonical form nothing is listed. -/
theorem Memory.read_below {aw low : Nat} (mem : List Host.Cell) (hw : Memory.wfFrom aw low mem = true) (addr : Nat)
    (h : addr < low) : Memory.read mem addr = none := by
  induction mem generalizing low with
  | nil => rfl
  | cons c rest ih =>
    obtain ⟨k, v⟩ := c
    simp only [Memory.wfFrom, Bool.and_eq_true, decide_eq_true_eq] at hw
    rw [Memory.read_cons, if_neg (by omega)]
    exact ih hw.2 (by omega)

theorem Memory.wfFrom_write {aw low : Nat} (mem : List Host.Cell) (hw : Memory.wfFrom aw low mem = true)
    (addr : Nat) (b : U8) (hl : low ≤ addr) (ha : addr < 2 ^ aw) :
    Memory.wfFrom aw low (Memory.write mem addr b) = true := by
  induction mem generalizing low with
  | nil => simp [Memory.write, Memory.wfFrom, hl, ha]
  | cons c rest ih =>
    obtain ⟨k, v⟩ := c
    simp only [Memory.wfFrom, Bool.and_eq_true, decide_eq_true_eq] at hw
    simp only [Memory.write]
    split
    · simp only [Memory.wfFrom, Bool.and_eq_true, decide_eq_true_eq]
      exact ⟨⟨hl, ha⟩, ⟨by omega, hw.1.2⟩, hw.2⟩
    · split
      · rename_i _ hk
        subst hk
        simp only [Memory.wfFrom, Bool.and_eq_true, decide_eq_true_eq]
        exact hw
      · simp only [Memory.wfFrom, Bool.and_eq_true, decide_eq_true_eq]
        exact ⟨hw.1, ih hw.2 (by omega)⟩

/-- A host write keeps the canonical form. -/
theorem Memory.wf_write {aw : Nat} (mem : List Host.Cell) (hw : Memory.wf aw mem = true) (addr : Nat) (b : U8)
    (ha : addr < 2 ^ aw) : Memory.wf aw (Memory.write mem addr b) = true :=
  Memory.wfFrom_write mem hw addr b (Nat.zero_le _) ha

theorem State.reset_mem_wf : Memory.wf State.reset.aw State.reset.mem = true := rfl

/-- `MemRead(addr, 1)` answers a byte exactly where the address exists and the host's memory admits it. -/
theorem memRead1_ok_iff (s : State) (addr : Nat) (b : U8) :
    memRead1 s addr = .ok b ↔ addr < 2 ^ s.aw ∧ Memory.read s.mem addr = some b := by
  unfold memRead1
  split
  · cases h : Memory.read s.mem addr <;> simp_all
  · simp_all

/-- A read depends on the memory and its width alone. -/
theorem memRead1_congr {s t : State} (hw : s.aw = t.aw) (h : s.mem = t.mem) (addr : Nat) :
    memRead1 s addr = memRead1 t addr := by
  simp [memRead1, hw, h]

theorem memRead8_congr {s t : State} (hw : s.aw = t.aw) (h : s.mem = t.mem) (addr : Nat) :
    memRead8 s addr = memRead8 t addr := by
  simp only [memRead8, memRead1_congr hw h]

end Sys2Proof.Machine
end

