-- ==== Sys2Proof/Laws/Ops.lean ====
section
/-! SUPPORT. For each shared operation, what it can do: if it answers a state, then that state is one of these. -/

namespace Sys2Proof.Machine

/-! ## Outcomes -/

@[simp] theorem toOutcome_ok (s : State) : toOutcome (.ok s) = .next s := rfl

@[simp] theorem toOutcome_error (f : Fault) : toOutcome (.error f) = .fault f := rfl

theorem toOutcome_eq_next {x : Except Fault State} {t : State} : toOutcome x = .next t ↔ x = .ok t := by
  cases x <;> simp [toOutcome]

theorem toOutcome_eq_fault {x : Except Fault State} {f : Fault} : toOutcome x = .fault f ↔ x = .error f := by
  cases x <;> simp [toOutcome]

theorem toOutcome_ne_refused {x : Except Fault State} {r : Refusal} : toOutcome x ≠ .refused r := by
  cases x <;> simp [toOutcome]

@[simp] theorem except_ok_bind {α β : Type} (a : α) (f : α → Except Fault β) :
    ((Except.ok a : Except Fault α) >>= f) = f a := rfl

@[simp] theorem except_error_bind {α β : Type} (e : Fault) (f : α → Except Fault β) :
    ((Except.error e : Except Fault α) >>= f) = .error e := rfl

/-- A chain of two operations answers only if both do. -/
theorem bind_eq_ok {α β : Type} {x : Except Fault α} {f : α → Except Fault β} {b : β} :
    (x >>= f) = .ok b ↔ ∃ a, x = .ok a ∧ f a = .ok b := by
  cases x <;> simp

theorem except_bind_eq_ok {α β : Type} {x : Except Fault α} {f : α → Except Fault β} {b : β} :
    x.bind f = .ok b ↔ ∃ a, x = .ok a ∧ f a = .ok b := bind_eq_ok

theorem except_map_eq_ok {α β : Type} {x : Except Fault α} {f : α → β} {b : β} :
    x.map f = .ok b ↔ ∃ a, x = .ok a ∧ f a = b := by
  cases x <;> simp [Except.map]

/-! ## Tables and matrices -/

theorem readByteTable_eq_ok {s : State} {t : ByteTable} :
    readByteTable s = .ok t ↔ s.initDone = true ∧ s.bt = some t := by
  unfold readByteTable
  cases s.initDone <;> cases s.bt <;> simp

theorem readShiftTable_eq_ok {s : State} {which : TableSel} {t : ShiftTable} :
    readShiftTable s which = .ok t ↔ s.initDone = true ∧ shiftTable s which = some t := by
  unfold readShiftTable
  cases s.initDone <;> cases shiftTable s which <;> simp

/-- The current matrix is the scratch matrix that `where` names. -/
theorem currentMatrix_eq_ok {s : State} {m : Matrix} :
    currentMatrix s = .ok m ↔ (s.scratch = .odd ∧ s.modd = some m) ∨ (s.scratch = .even ∧ s.meven = some m) := by
  unfold currentMatrix
  cases s.scratch <;> cases s.modd <;> cases s.meven <;> simp

@[simp] theorem currentMatrix_setOdd (m : Matrix) (s : State) : currentMatrix (setOdd m s) = .ok m := rfl

@[simp] theorem currentMatrix_setEven (m : Matrix) (s : State) : currentMatrix (setEven m s) = .ok m := by
  unfold currentMatrix setEven
  cases s.modd <;> rfl

/-- The state with its scratch matrices and the variable `where` as given. -/
def withScratch (me mo : Option Matrix) (w : Scratch) (s : State) : State :=
  { s with meven := me, modd := mo, scratch := w }

/-- A squaring succeeds with the square as the new current matrix and touches only the scratch matrices. -/
theorem squareScratch_of_currentMatrix {s : State} {m : Matrix} (h : currentMatrix s = .ok m) :
    ∃ t, squareScratch s = .ok t ∧ currentMatrix t = .ok (msquare m) ∧
      t = withScratch t.meven t.modd t.scratch s := by
  unfold squareScratch
  rw [h, except_ok_bind]
  cases s.scratch
  · exact ⟨_, rfl, currentMatrix_setEven _ _, rfl⟩
  · exact ⟨_, rfl, currentMatrix_setOdd _ _, rfl⟩

/-- A matrix squared `count` times. -/
def squared (m : Matrix) : Nat → Matrix
  | 0 => m
  | count + 1 => squared (msquare m) count

theorem squareTimes_of_currentMatrix {s : State} {m : Matrix} (count : Nat) (h : currentMatrix s = .ok m) :
    ∃ t, squareTimes count s = .ok t ∧ currentMatrix t = .ok (squared m count) ∧
      t = withScratch t.meven t.modd t.scratch s := by
  induction count generalizing s m with
  | zero => exact ⟨s, rfl, h, rfl⟩
  | succ count ih =>
    obtain ⟨u, hu, hm, hf⟩ := squareScratch_of_currentMatrix h
    obtain ⟨t, ht, hq, hg⟩ := ih hm
    refine ⟨t, ?_, hq, ?_⟩
    · simp only [squareTimes, hu, Except.bind, ht]
    · rw [hg, hf]; rfl

/-- ZOP always answers; its matrix is `ZBASE` squared `k + 3` times, and only the scratch matrices change. -/
theorem zop_spec (len : Nat) (s : State) :
    ∃ t, zop len s = .ok t ∧ currentMatrix t = .ok (squared zbase (Nat.log2 len + 3)) ∧
      t = withScratch t.meven t.modd t.scratch s := by
  obtain ⟨t, ht, hm, hf⟩ := squareTimes_of_currentMatrix (Nat.log2 len + 3) (currentMatrix_setOdd zbase s)
  exact ⟨t, ht, hm, by rw [hf]; rfl⟩

theorem ztab_of_currentMatrix {s : State} {m : Matrix} (which : TableSel) (h : currentMatrix s = .ok m) :
    ztab which s = .ok (setShiftTable which (ztabOf m) s) := by
  simp [ztab, h]

/-- The table construction always answers, with the three tables, `INIT_DONE` set and nothing else changed but the
scratch matrices. -/
theorem buildTables_spec (s : State) :
    ∃ me mo w, buildTables s = .ok (withScratch me mo w
      { s with
        initDone := true
        bt := some byteTable
        zs := some (ztabOf (squared zbase (Nat.log2 shortBlock + 3)))
        zl := some (ztabOf (squared zbase (Nat.log2 longBlock + 3))) }) := by
  obtain ⟨s1, h1, m1, f1⟩ := zop_spec shortBlock (btab s)
  obtain ⟨s3, h3, m3, f3⟩ := zop_spec longBlock
    (setShiftTable .short (ztabOf (squared zbase (Nat.log2 shortBlock + 3))) s1)
  refine ⟨s3.meven, s3.modd, s3.scratch, ?_⟩
  unfold buildTables
  rw [h1, except_ok_bind, ztab_of_currentMatrix .short m1, except_ok_bind, h3, except_ok_bind,
    ztab_of_currentMatrix .long m3, except_ok_bind, f3, f1]
  rfl

/-! ## Steps of the engines -/

theorem software_byteStep {s : State} {t : ByteTable} (hd : s.initDone = true) (ht : s.bt = some t) (a : U32)
    (b : U8) : byteStep .software s a b = .ok (swb t a b) := by
  simp [byteStep, readByteTable_eq_ok.2 ⟨hd, ht⟩]

theorem software_wordStep {s : State} {t : ByteTable} (hd : s.initDone = true) (ht : s.bt = some t) (a : U32)
    (w : U64) : wordStep .software s a w = .ok (sww t a w) := by
  simp [wordStep, readByteTable_eq_ok.2 ⟨hd, ht⟩]

theorem hardware_byteStep {s : State} (hc : s.hwCap = true) (a : U32) (b : U8) :
    byteStep .hardware s a b = .ok (hwb a b) := by
  simp [byteStep, whereUnitPresent, hc]

theorem hardware_wordStep {s : State} (hc : s.hwCap = true) (a : U32) (w : U64) :
    wordStep .hardware s a w = .ok (hww a w) := by
  simp [wordStep, whereUnitPresent, hc]

/-! ## The pointer and the length -/

/-- `advance` answers in one way only: `NEXT` and `LEN` moved by `k`. -/
theorem advance_eq_ok {k : Nat} {s t : State} (h : advance k s = .ok t) :
    t = { s with next := nextAfter s.aw s.next k, len := s.len - k } ∧
      (s.next + k < 2 ^ s.aw ∨ (s.next + k = 2 ^ s.aw ∧ s.len = k)) := by
  unfold advance at h
  split at h
  · rename_i hc
    cases h
    exact ⟨rfl, hc⟩
  · cases h

theorem advance_of_room {k : Nat} {s : State}
    (h : s.next + k < 2 ^ s.aw ∨ (s.next + k = 2 ^ s.aw ∧ s.len = k)) :
    advance k s = .ok { s with next := nextAfter s.aw s.next k, len := s.len - k } := by
  simp only [advance, if_pos h]

theorem nextAfter_of_room {aw next k : Nat} (h : next + k < 2 ^ aw) : nextAfter aw next k = next + k := if_pos h

/-- `NEXT` stays a `uAW` number, at the top of the address space too (R10, entry 6). -/
theorem nextAfter_lt (aw next k : Nat) : nextAfter aw next k < 2 ^ aw := by
  unfold nextAfter
  split
  · assumption
  · exact Nat.mod_lt _ (Nat.two_pow_pos aw)

/-! ## The registers the engine loops on -/

/-- The state with the accumulators, `NEXT` and `LEN` as given. -/
def withLoop (a0 a1 a2 : U32) (nx ln : Nat) (s : State) : State :=
  { s with acc0 := a0, acc1 := a1, acc2 := a2, next := nx, len := ln }

/-- One state is another but for the accumulators, `NEXT` and `LEN`. -/
def LoopFrame (s t : State) : Prop := t = withLoop t.acc0 t.acc1 t.acc2 t.next t.len s

theorem LoopFrame.refl (s : State) : LoopFrame s s := rfl

theorem LoopFrame.trans {s t u : State} (h1 : LoopFrame s t) (h2 : LoopFrame t u) : LoopFrame s u := by
  unfold LoopFrame at *
  rw [h2, h1]
  rfl

/-- A byte step changes `ACC0`, `NEXT` and `LEN` alone. -/
theorem consumeByte_eq_ok {e : Engine} {s t : State} (h : consumeByte e s = .ok t) :
    ∃ b v, memRead1 s s.next = .ok b ∧ byteStep e s s.acc0 b = .ok v ∧
      t = withLoop v s.acc1 s.acc2 (nextAfter s.aw s.next 1) (s.len - 1) s := by
  simp only [consumeByte, bind_eq_ok] at h
  obtain ⟨b, hb, v, hv, ha⟩ := h
  exact ⟨b, v, hb, hv, (advance_eq_ok ha).1⟩

/-- A word step changes `ACC0`, `NEXT` and `LEN` alone. -/
theorem consumeWord_eq_ok {e : Engine} {s t : State} (h : consumeWord e s = .ok t) :
    ∃ w v, memRead8 s s.next = .ok w ∧ wordStep e s s.acc0 w = .ok v ∧
      t = withLoop v s.acc1 s.acc2 (nextAfter s.aw s.next 8) (s.len - 8) s := by
  simp only [consumeWord, bind_eq_ok] at h
  obtain ⟨w, hw, v, hv, ha⟩ := h
  exact ⟨w, v, hw, hv, (advance_eq_ok ha).1⟩

/-- An iteration of a group changes the accumulators alone. -/
theorem laneIteration_eq_ok {e : Engine} {block i : Nat} {s t : State} (h : laneIteration e block i s = .ok t) :
    t = withLoop t.acc0 t.acc1 t.acc2 s.next s.len s := by
  simp only [laneIteration, bind_eq_ok] at h
  obtain ⟨_, _, _, _, _, _, _, _, _, _, _, _, h⟩ := h
  cases h
  rfl

theorem laneLoop_eq_ok {e : Engine} {block count : Nat} {s t : State} (h : laneLoop e block count s = .ok t) :
    t = withLoop t.acc0 t.acc1 t.acc2 s.next s.len s := by
  induction count generalizing t with
  | zero => cases h; rfl
  | succ count ih =>
    simp only [laneLoop, except_bind_eq_ok] at h
    obtain ⟨u, hu, ht⟩ := h
    rw [laneIteration_eq_ok ht, ih hu]
    rfl

theorem combine_eq_ok {which : TableSel} {s t : State} (h : combine which s = .ok t) :
    ∃ tab, s.initDone = true ∧ shiftTable s which = some tab ∧
      t = setAcc0 (shiftBy tab (shiftBy tab s.acc0 ^^^ s.acc1) ^^^ s.acc2) s := by
  simp only [combine, bind_eq_ok] at h
  obtain ⟨tab, ht, h⟩ := h
  cases h
  exact ⟨tab, (readShiftTable_eq_ok.1 ht).1, (readShiftTable_eq_ok.1 ht).2, rfl⟩

/-- A group changes the accumulators, `NEXT` and `LEN` alone, and only where `LEN >= 3*BLOCK`. -/
theorem group_eq_ok {e : Engine} {which : TableSel} {s t : State} (h : group e which s = .ok t) :
    groupFits which s = true ∧ LoopFrame s t ∧ t.next = nextAfter s.aw s.next (3 * blockOf which) ∧
      t.len = s.len - 3 * blockOf which := by
  unfold group at h
  split at h
  · rename_i hf
    simp only [bind_eq_ok] at h
    obtain ⟨u, hu, v, hv, ht⟩ := h
    obtain ⟨_, _, _, hv⟩ := combine_eq_ok hv
    have hl := laneLoop_eq_ok hu
    have ha := (advance_eq_ok ht).1
    have hn : v.next = s.next := by rw [hv]; simp only [setAcc0_next]; rw [hl]; rfl
    have hlen : v.len = s.len := by rw [hv]; simp only [setAcc0_len]; rw [hl]; rfl
    have haw : v.aw = s.aw := by rw [hv]; simp only [setAcc0_aw]; rw [hl]; rfl
    refine ⟨hf, ?_, ?_, ?_⟩
    · unfold LoopFrame
      rw [ha, hv, hl]
      rfl
    · rw [ha, ← hn, ← haw]
    · rw [ha, ← hlen]
  · cases h

/-! ## Loops -/

/-- What the body keeps, the loop keeps. -/
theorem loopWhile_induct {cond : State → Bool} {body : State → Except Fault State} {P : State → Prop}
    (hbody : ∀ s t, cond s = true → P s → body s = .ok t → P t) :
    ∀ (count : Nat) (s t : State), P s → loopWhile cond body count s = .ok t → P t := by
  intro count
  induction count with
  | zero => intro s t hs h; cases h; exact hs
  | succ count ih =>
    intro s t hs h
    simp only [loopWhile] at h
    split at h
    · rename_i hc
      obtain ⟨u, hu, ht⟩ := except_bind_eq_ok.1 h
      exact ih u t (hbody s u hc hs hu) ht
    · cases h; exact hs

/-- What an arrow keeps, a run of arrows keeps. -/
theorem runArrows_induct {c : HostCmd} {P : State → Prop}
    (harrow : ∀ s t, s.ph ≠ .idle → P s → arrow c s = .ok t → P t) :
    ∀ (count : Nat) (s t : State), P s → runArrows c count s = .ok t → P t := by
  intro count
  induction count with
  | zero => intro s t hs h; cases h; exact hs
  | succ count ih =>
    intro s t hs h
    simp only [runArrows] at h
    split at h
    · cases h; exact hs
    · rename_i hi
      obtain ⟨u, hu, ht⟩ := except_bind_eq_ok.1 h
      exact ih u t (harrow s u hi hs hu) ht

/-- SW1 and HW1 change `ACC0`, `NEXT` and `LEN` alone. -/
theorem singleLane_eq_ok {e : Engine} {s t : State} (h : singleLane e s = .ok t) :
    t = withLoop t.acc0 s.acc1 s.acc2 t.next t.len s := by
  have hstep : ∀ (cond : State → Bool) (body : State → Except Fault State),
      (∀ u v, body u = .ok v → v = withLoop v.acc0 u.acc1 u.acc2 v.next v.len u) →
      ∀ (count : Nat) (u v : State), u = withLoop u.acc0 s.acc1 s.acc2 u.next u.len s →
        loopWhile cond body count u = .ok v → v = withLoop v.acc0 s.acc1 s.acc2 v.next v.len s := by
    intro cond body hb
    refine loopWhile_induct (P := fun u => u = withLoop u.acc0 s.acc1 s.acc2 u.next u.len s) ?_
    intro u v _ hu hv
    rw [hb u v hv, hu]
    rfl
  have hbyte : ∀ u v, consumeByte e u = .ok v → v = withLoop v.acc0 u.acc1 u.acc2 v.next v.len u := by
    intro u v huv
    obtain ⟨_, _, _, _, hv⟩ := consumeByte_eq_ok huv
    rw [hv]
    rfl
  have hword : ∀ u v, consumeWord e u = .ok v → v = withLoop v.acc0 u.acc1 u.acc2 v.next v.len u := by
    intro u v huv
    obtain ⟨_, _, _, _, hv⟩ := consumeWord_eq_ok huv
    rw [hv]
    rfl
  simp only [singleLane, bind_eq_ok] at h
  obtain ⟨u, hu, v, hv, ht⟩ := h
  exact hstep _ _ hbyte _ _ _ (hstep _ _ hword _ _ _ (hstep _ _ hbyte _ _ _ rfl hu) hv) ht

end Sys2Proof.Machine
end

