-- ==== Sys2Proof/Laws/Oracle.lean ====
section
/-! SUPPORT. The bytes of a buffer, and when the reads of a group and the group itself answer. -/

namespace Sys2Proof.Machine

/-- A run of equal bytes, as the host's memory lists it. -/
def Memory.fill (addr : Nat) (b : U8) : Nat → List Host.Cell
  | 0 => []
  | count + 1 => (addr, b) :: Memory.fill (addr + 1) b count

theorem Memory.read_fill (b : U8) (count addr x : Nat) (h1 : addr ≤ x) (h2 : x < addr + count) :
    Memory.read (Memory.fill addr b count) x = some b := by
  induction count generalizing addr with
  | zero => omega
  | succ count ih =>
    simp only [Memory.fill, Memory.read_cons]
    split
    · rfl
    · exact ih (addr + 1) (by omega) (by omega)

theorem Memory.wfFrom_fill (aw : Nat) (b : U8) (count low addr : Nat) (hl : low ≤ addr)
    (h : addr + count ≤ 2 ^ aw) : Memory.wfFrom aw low (Memory.fill addr b count) = true := by
  induction count generalizing addr low with
  | zero => rfl
  | succ count ih =>
    simp only [Memory.fill, Memory.wfFrom, Bool.and_eq_true, decide_eq_true_eq]
    exact ⟨⟨hl, by omega⟩, ih (addr + 1) (addr + 1) le_rfl (by omega)⟩

/-- The bytes of a buffer are there exactly when every one of its addresses answers a read. -/
theorem bufferBytes_isSome_iff (s : State) (addr count : Nat) :
    (∃ d, bufferBytes s addr count = some d) ↔ ∀ i < count, ∃ b, memRead1 s (addr + i) = .ok b := by
  induction count generalizing addr with
  | zero => simp [bufferBytes]
  | succ count ih =>
    simp only [bufferBytes]
    constructor
    · rintro ⟨d, h⟩ i hi
      split at h
      · rename_i b bs hb hbs
        rcases i with _ | i
        · exact ⟨b, hb⟩
        · have := (ih (addr + 1)).1 ⟨bs, hbs⟩ i (by omega)
          rwa [show addr + 1 + i = addr + (i + 1) by omega] at this
      · cases h
    · intro h
      obtain ⟨b, hb⟩ := h 0 (by omega)
      obtain ⟨bs, hbs⟩ := (ih (addr + 1)).2 fun i hi => by
        have := h (i + 1) (by omega)
        rwa [show addr + (i + 1) = addr + 1 + i by omega] at this
      rw [Nat.add_zero] at hb
      exact ⟨b :: bs, by rw [hb, hbs]⟩

theorem bufferBytes_length {s : State} {addr count : Nat} {d : List U8} (h : bufferBytes s addr count = some d) :
    d.length = count := by
  induction count generalizing addr d with
  | zero => cases h; rfl
  | succ count ih =>
    simp only [bufferBytes] at h
    split at h
    · rename_i _ _ _ hbs
      cases h
      simp [ih hbs]
    · cases h

/-- The bytes depend on the memory and its width alone. -/
theorem bufferBytes_congr {s t : State} (hw : s.aw = t.aw) (h : s.mem = t.mem) (addr count : Nat) :
    bufferBytes s addr count = bufferBytes t addr count := by
  induction count generalizing addr with
  | zero => rfl
  | succ count ih => simp only [bufferBytes, memRead1_congr hw h, ih]

theorem memRead1_fill {s : State} {addr count x : Nat} {b : U8} (hm : s.mem = Memory.fill addr b count)
    (h1 : addr ≤ x) (h2 : x < addr + count) (h3 : x < 2 ^ s.aw) : memRead1 s x = .ok b :=
  (memRead1_ok_iff s x b).2 ⟨h3, by rw [hm]; exact Memory.read_fill b count addr x h1 h2⟩

/-- An aligned word answers where its eight bytes do. -/
theorem memRead8_answers {s : State} {addr : Nat} (ha : addr % 8 = 0)
    (h : ∀ j < 8, ∃ b, memRead1 s (addr + j) = .ok b) : ∃ w, memRead8 s addr = .ok w := by
  obtain ⟨b0, h0⟩ := h 0 (by omega)
  obtain ⟨b1, h1⟩ := h 1 (by omega)
  obtain ⟨b2, h2⟩ := h 2 (by omega)
  obtain ⟨b3, h3⟩ := h 3 (by omega)
  obtain ⟨b4, h4⟩ := h 4 (by omega)
  obtain ⟨b5, h5⟩ := h 5 (by omega)
  obtain ⟨b6, h6⟩ := h 6 (by omega)
  obtain ⟨b7, h7⟩ := h 7 (by omega)
  rw [Nat.add_zero] at h0
  exact ⟨_, by simp [memRead8, ha, h0, h1, h2, h3, h4, h5, h6, h7]; rfl⟩

/-- An engine's word step answers in every state of a loop where it answers at its start. -/
theorem wordStep_withLoop (e : Engine) (a0 a1 a2 : U32) (nx ln : Nat) (s : State) (a : U32) (w : U64) :
    wordStep e (withLoop a0 a1 a2 nx ln s) a w = wordStep e s a w := by
  cases e <;> rfl

/-- The iterations of a group answer where its three lanes are readable words. -/
theorem laneLoop_answers {e : Engine} {s : State} {block : Nat} (hs : ∀ a w, ∃ v, wordStep e s a w = .ok v)
    (count : Nat) (hr : ∀ i < count, ∀ lane < 3, ∃ w, memRead8 s (s.next + lane * block + 8 * i) = .ok w) :
    ∃ t, laneLoop e block count s = .ok t := by
  induction count with
  | zero => exact ⟨s, rfl⟩
  | succ count ih =>
    obtain ⟨u, hu⟩ := ih fun i hi => hr i (by omega)
    have hl := laneLoop_eq_ok hu
    have hn : u.next = s.next := by rw [hl]; rfl
    have hm : u.mem = s.mem := by rw [hl]; rfl
    have hw' : u.aw = s.aw := by rw [hl]; rfl
    have hw : ∀ a w, ∃ v, wordStep e u a w = .ok v := by
      intro a w
      rw [hl, wordStep_withLoop]
      exact hs a w
    obtain ⟨w0, h0⟩ := hr count (by omega) 0 (by omega)
    obtain ⟨w1, h1⟩ := hr count (by omega) 1 (by omega)
    obtain ⟨w2, h2⟩ := hr count (by omega) 2 (by omega)
    rw [← memRead8_congr hw' hm, ← hn] at h0 h1 h2
    rw [Nat.zero_mul, Nat.add_zero] at h0
    rw [Nat.one_mul] at h1
    obtain ⟨v0, k0⟩ := hw u.acc0 w0
    obtain ⟨v1, k1⟩ := hw u.acc1 w1
    obtain ⟨v2, k2⟩ := hw u.acc2 w2
    refine ⟨setAcc2 v2 (setAcc1 v1 (setAcc0 v0 u)), ?_⟩
    rw [laneLoop, hu]
    simp only [Except.bind, laneIteration, h0, h1, h2, k0, k1, k2, except_ok_bind]

/-- A group answers where its bytes are readable from an aligned pointer on and its tables and its step are there. -/
theorem group_answers {e : Engine} {which : TableSel} {s : State} (hd : s.initDone = true)
    (ht : ∃ t, shiftTable s which = some t) (hs : ∀ a w, ∃ v, wordStep e s a w = .ok v)
    (ha : s.next % 8 = 0) (hl : 3 * blockOf which ≤ s.len)
    (hb : ∀ i < 3 * blockOf which, ∃ b, memRead1 s (s.next + i) = .ok b)
    (hn : s.next + 3 * blockOf which < 2 ^ s.aw) : ∃ t, group e which s = .ok t := by
  have h8 : blockOf which % 8 = 0 := by cases which <;> rfl
  obtain ⟨u, hu⟩ := laneLoop_answers (e := e) (s := setAcc2 0 (setAcc1 0 s)) (block := blockOf which)
    (by intro a w; cases e <;> exact hs a w) (blockOf which / 8) (by
      intro i hi lane hlane
      have hlb : lane * blockOf which ≤ 2 * blockOf which := Nat.mul_le_mul_right _ (by omega)
      have hl8 : lane * blockOf which % 8 = 0 := by rw [Nat.mul_mod, h8]; simp
      refine memRead8_answers ?_ ?_
      · show (s.next + lane * blockOf which + 8 * i) % 8 = 0
        omega
      · intro j hj
        obtain ⟨b, h⟩ := hb (lane * blockOf which + 8 * i + j) (by omega)
        refine ⟨b, ?_⟩
        rw [← h, memRead1_congr (s := setAcc2 0 (setAcc1 0 s)) (t := s) rfl rfl]
        show memRead1 s (s.next + lane * blockOf which + 8 * i + j) = _
        congr 1
        omega)
  have hf := laneLoop_eq_ok hu
  obtain ⟨tab, htab⟩ := ht
  have hr : readShiftTable u which = .ok tab := by
    refine readShiftTable_eq_ok.2 ⟨by rw [hf]; exact hd, ?_⟩
    rw [← htab, hf]
    cases which <;> rfl
  have hun : u.next = s.next := by rw [hf]; rfl
  have hua : u.aw = s.aw := by rw [hf]; rfl
  unfold group
  rw [if_pos (by simpa [groupFits] using hl), hu, except_ok_bind]
  simp only [combine, hr, except_ok_bind]
  rw [advance_of_room (.inl (by rw [setAcc0_next, setAcc0_aw, hun, hua]; exact hn))]
  exact ⟨_, rfl⟩

end Sys2Proof.Machine
end

