-- ==== Sys2Proof/Laws/PerInstr.lean ====
section
/-! SUPPORT. Per constructor: its word passes the checks of R44 and decodes to it.
-/

namespace Sys2Proof.Laws.Encodes

/-- The word of an operation is well formed and decodes to the operation. -/
def Statement (i : Instr) : Prop := i.wellFormed = true ∧ decode (encode i) = .ok i

theorem init : Statement .init := ⟨rfl, rfl⟩
theorem crc32c : Statement .crc32c := ⟨rfl, rfl⟩
theorem crcSw : Statement .crcSw := ⟨rfl, rfl⟩
theorem crcHw : Statement .crcHw := ⟨rfl, rfl⟩
theorem mtimes : Statement .mtimes := ⟨rfl, rfl⟩
theorem msquare : Statement .msquare := ⟨rfl, rfl⟩
theorem zop : Statement .zop := ⟨rfl, rfl⟩
theorem ztab (which : TableSel) : Statement (.ztab which) := by cases which <;> exact ⟨rfl, rfl⟩
theorem shift (which : TableSel) : Statement (.shift which) := by cases which <;> exact ⟨rfl, rfl⟩
theorem combine (which : TableSel) : Statement (.combine which) := by cases which <;> exact ⟨rfl, rfl⟩
theorem btab : Statement .btab := ⟨rfl, rfl⟩
theorem swb : Statement .swb := ⟨rfl, rfl⟩
theorem sww : Statement .sww := ⟨rfl, rfl⟩
theorem sw1 : Statement .sw1 := ⟨rfl, rfl⟩
theorem sw3s : Statement .sw3s := ⟨rfl, rfl⟩
theorem sw3l : Statement .sw3l := ⟨rfl, rfl⟩
theorem hwb : Statement .hwb := ⟨rfl, rfl⟩
theorem hww : Statement .hww := ⟨rfl, rfl⟩
theorem hw1 : Statement .hw1 := ⟨rfl, rfl⟩
theorem hw3s : Statement .hw3s := ⟨rfl, rfl⟩
theorem hw3l : Statement .hw3l := ⟨rfl, rfl⟩
theorem detect : Statement .detect := ⟨rfl, rfl⟩

end Sys2Proof.Laws.Encodes
end

