-- ==== Sys2Proof/Laws/Sequencer.lean ====
section
/-! SUPPORT. The sequencer: everything an arrow of 10_state.md rule R24 can do, and that a run of arrows ends in
`IDLE`. -/

namespace Sys2Proof.Machine

/-- `k` bytes consumed: the accumulators, `NEXT` and `LEN` alone change, and the bytes lie below the top of the address
space. -/
def Moved (k : Nat) (s t : State) : Prop :=
  LoopFrame s t ∧ t.next = nextAfter s.aw s.next k ∧ t.len = s.len - k ∧ k ≤ s.len ∧
    (s.next + k < 2 ^ s.aw ∨ (s.next + k = 2 ^ s.aw ∧ s.len = k))

theorem Moved.len {k : Nat} {s t : State} (h : Moved k s t) : t.len = s.len - k := by
  exact h.2.2.1

theorem Moved.next {k : Nat} {s t : State} (h : Moved k s t) (hl : t.len ≠ 0) :
    t.next = s.next + k := by
  have := h.len
  have hk := h.2.2.2.1
  rcases h.2.2.2.2 with hr | hr
  · rw [h.2.1, nextAfter_of_room hr]
  · omega

theorem consumeByte_moved {e : Engine} {s t : State} (hl : s.len ≠ 0) (h : consumeByte e s = .ok t) :
    Moved 1 s t := by
  simp only [consumeByte, bind_eq_ok] at h
  obtain ⟨b, _, v, _, ha⟩ := h
  obtain ⟨rfl, hr⟩ := advance_eq_ok ha
  exact ⟨rfl, rfl, rfl, by omega, hr⟩

theorem consumeWord_moved {e : Engine} {s t : State} (hl : 8 ≤ s.len) (h : consumeWord e s = .ok t) :
    Moved 8 s t := by
  simp only [consumeWord, bind_eq_ok] at h
  obtain ⟨w, _, v, _, ha⟩ := h
  obtain ⟨rfl, hr⟩ := advance_eq_ok ha
  exact ⟨rfl, rfl, rfl, hl, hr⟩

theorem group_moved {e : Engine} {which : TableSel} {s t : State} (h : group e which s = .ok t) :
    Moved (3 * blockOf which) s t := by
  obtain ⟨hf, hlf, hn, hl⟩ := group_eq_ok h
  refine ⟨hlf, hn, hl, by simpa [groupFits] using hf, ?_⟩
  unfold group at h
  rw [if_pos hf] at h
  simp only [bind_eq_ok] at h
  obtain ⟨u, hu, v, hv, ht⟩ := h
  obtain ⟨_, _, _, hv⟩ := combine_eq_ok hv
  have hr := (advance_eq_ok ht).2
  rw [hv] at hr
  have hlu := laneLoop_eq_ok hu
  have hun : u.next = s.next := by rw [hlu]; rfl
  have hul : u.len = s.len := by rw [hlu]; rfl
  have hua : u.aw = s.aw := by rw [hlu]; rfl
  simpa only [setAcc0_next, setAcc0_len, setAcc0_aw, hun, hul, hua] using hr

/-- The tables as INIT builds them, `INIT_DONE` set, the scratch matrices as given. -/
def initialised (me mo : Option Matrix) (w : Scratch) (s : State) : State :=
  withScratch me mo w
    { s with
      initDone := true
      bt := some byteTable
      zs := some (ztabOf (squared zbase (Nat.log2 shortBlock + 3)))
      zl := some (ztabOf (squared zbase (Nat.log2 longBlock + 3))) }

/-- What an arrow out of a phase of the body can do: consume bytes and stay, go on to the next phase, or respond. -/
inductive BodyArrow (e : Engine) (s t : State) : Prop
  | prologue (ph : s.ph = .p) (guard : prologueGoesOn s = true) (does : consumeByte e s = .ok t) (moved : Moved 1 s t)
  | prologueEnds (ph : s.ph = .p) (guard : prologueGoesOn s = false) (does : t = enterPhase .l s)
  | long (ph : s.ph = .l) (guard : groupFits .long s = true) (does : group e .long s = .ok t)
      (moved : Moved (3 * blockOf .long) s t)
  | longEnds (ph : s.ph = .l) (guard : groupFits .long s = false) (does : t = enterPhase .s s)
  | short (ph : s.ph = .s) (guard : groupFits .short s = true) (does : group e .short s = .ok t)
      (moved : Moved (3 * blockOf .short) s t)
  | shortEnds (ph : s.ph = .s) (guard : groupFits .short s = false) (does : t = enterPhase .w s)
  | word (ph : s.ph = .w) (guard : wordFits s = true) (does : consumeWord e s = .ok t) (moved : Moved 8 s t)
  | wordEnds (ph : s.ph = .w) (guard : wordFits s = false) (does : t = enterPhase .t s)
  | tail (ph : s.ph = .t) (guard : bytesLeft s = true) (does : consumeByte e s = .ok t) (moved : Moved 1 s t)
  | responds (ph : s.ph = .t) (guard : bytesLeft s = false) (does : t = respondChecksum s)

/-- Everything an arrow can do. -/
inductive ArrowCases (c : HostCmd) (s t : State) : Prop
  | idle (ph : s.ph = .idle) (does : t = s)
  | init (ph : s.ph = .init) (does : ∃ me mo w, t = afterInitGuard c (initialised me mo w s))
  | detect (ph : s.ph = .detect) (does : t = detectArrow c s)
  | body (e : Engine) (engine : engineFor c s = .ok e) (does : BodyArrow e s t)

theorem arrow_cases {c : HostCmd} {s t : State} (h : arrow c s = .ok t) : ArrowCases c s t := by
  unfold arrow at h
  split at h
  · rename_i hp
    cases h
    exact .idle hp rfl
  · rename_i hp
    obtain ⟨u, hu, rfl⟩ := except_map_eq_ok.1 h
    obtain ⟨me, mo, w, hb⟩ := buildTables_spec s
    rw [hb] at hu
    cases hu
    exact .init hp ⟨me, mo, w, rfl⟩
  · rename_i hp
    cases h
    exact .detect hp rfl
  all_goals
    rename_i hp
    obtain ⟨e, he, h⟩ := bind_eq_ok.1 h
    refine .body e he ?_
    split at h
  · rename_i hg
    exact .prologue hp hg h (consumeByte_moved (by simp [prologueGoesOn, bytesLeft] at hg; simpa using hg.1) h)
  · rename_i hg
    cases h
    exact .prologueEnds hp (by simpa using hg) rfl
  · rename_i hg
    exact .long hp hg h (group_moved h)
  · rename_i hg
    cases h
    exact .longEnds hp (by simpa using hg) rfl
  · rename_i hg
    exact .short hp hg h (group_moved h)
  · rename_i hg
    cases h
    exact .shortEnds hp (by simpa using hg) rfl
  · rename_i hg
    exact .word hp hg h (consumeWord_moved (by simpa [wordFits] using hg) h)
  · rename_i hg
    cases h
    exact .wordEnds hp (by simpa using hg) rfl
  · rename_i hg
    exact .tail hp hg h (consumeByte_moved (by simpa [bytesLeft] using hg) h)
  · rename_i hg
    cases h
    exact .responds hp (by simpa using hg) rfl

/-- How many arrows a phase still has before it, bytes aside. -/
def arrowsLeft (s : State) : Nat :=
  match s.ph with
  | .idle => 0
  | .init => s.n + 8
  | .detect => s.n + (if s.bind = .uninitialized then 7 else 6)
  | .p => s.len + 5
  | .l => s.len + 4
  | .s => s.len + 3
  | .w => s.len + 2
  | .t => s.len + 1

theorem Moved.ph {k : Nat} {s t : State} (h : Moved k s t) : t.ph = s.ph := by
  have := h.1
  unfold LoopFrame at this
  rw [this]
  rfl

theorem afterDetectGuard_arrowsLeft (c : HostCmd) (s : State) : arrowsLeft (afterDetectGuard c s) ≤ s.n + 5 := by
  cases c <;> simp [afterDetectGuard, arrowsLeft, respond, loadOperands]

theorem afterInitGuard_arrowsLeft (c : HostCmd) (s : State) : arrowsLeft (afterInitGuard c s) ≤ s.n + 7 := by
  have h := afterDetectGuard_arrowsLeft c s
  cases c
  · simp only [afterInitGuard]
    split
    · rename_i hb
      simp [arrowsLeft, enterPhase, hb]
    · omega
  · simp only [afterInitGuard]
    split
    · rename_i hb
      simp [arrowsLeft, enterPhase, hb]
    · omega
  · exact h.trans (by omega)
  · exact h.trans (by omega)

/-- Every arrow of a command in progress brings its response nearer (R123). -/
theorem arrow_arrowsLeft {c : HostCmd} {s t : State} (hp : s.ph ≠ .idle) (h : arrow c s = .ok t) :
    arrowsLeft t < arrowsLeft s := by
  cases arrow_cases h with
  | idle ph => exact absurd ph hp
  | init ph does =>
    obtain ⟨me, mo, w, rfl⟩ := does
    have hle := afterInitGuard_arrowsLeft c (initialised me mo w s)
    have hs : arrowsLeft s = s.n + 8 := by simp [arrowsLeft, ph]
    have hn : (initialised me mo w s).n = s.n := rfl
    rw [hn] at hle
    omega
  | detect ph does =>
    subst does
    have hd := fun u => afterDetectGuard_arrowsLeft c u
    unfold detectArrow
    cases hb : s.bind with
    | uninitialized => simp [arrowsLeft, ph, hb, startDetect, setBind]
    | detecting =>
      have := hd (finishDetect s)
      have hn : (finishDetect s).n = s.n := rfl
      rw [hn] at this
      simp only [arrowsLeft, ph, hb]
      exact Nat.lt_of_le_of_lt this (by simp)
    | boundSoftware =>
      have := hd s
      simp only [arrowsLeft, ph, hb]
      exact Nat.lt_of_le_of_lt this (by simp)
    | boundHardware =>
      have := hd s
      simp only [arrowsLeft, ph, hb]
      exact Nat.lt_of_le_of_lt this (by simp)
  | body e _ does =>
    cases does with
    | prologue ph _ _ m => simp only [arrowsLeft, m.ph, ph, m.len]; have := m.2.2.2.1; omega
    | prologueEnds ph _ d => subst d; simp [arrowsLeft, ph, enterPhase]
    | long ph _ _ m =>
      simp only [arrowsLeft, m.ph, ph, m.len]
      have := m.2.2.2.1
      have : blockOf .long = 8192 := rfl
      omega
    | longEnds ph _ d => subst d; simp [arrowsLeft, ph, enterPhase]
    | short ph _ _ m =>
      simp only [arrowsLeft, m.ph, ph, m.len]
      have := m.2.2.2.1
      have : blockOf .short = 256 := rfl
      omega
    | shortEnds ph _ d => subst d; simp [arrowsLeft, ph, enterPhase]
    | word ph _ _ m => simp only [arrowsLeft, m.ph, ph, m.len]; have := m.2.2.2.1; omega
    | wordEnds ph _ d => subst d; simp [arrowsLeft, ph, enterPhase]
    | tail ph _ _ m => simp only [arrowsLeft, m.ph, ph, m.len]; have := m.2.2.2.1; omega
    | responds ph _ d => subst d; simp [arrowsLeft, ph, respondChecksum, respond]

theorem idle_of_arrowsLeft {s : State} (h : arrowsLeft s = 0) : s.ph = .idle := by
  unfold arrowsLeft at h
  cases hp : s.ph <;> simp [hp] at h
  · rfl
  · split at h <;> omega

/-- A run of enough arrows that answers ends in `IDLE`. -/
theorem runArrows_idle_of_enough {c : HostCmd} (count : Nat) {s t : State} (hc : arrowsLeft s ≤ count)
    (h : runArrows c count s = .ok t) : t.ph = .idle := by
  induction count generalizing s with
  | zero =>
    cases h
    exact idle_of_arrowsLeft (by omega)
  | succ count ih =>
    simp only [runArrows] at h
    split at h
    · rename_i hp
      cases h
      exact hp
    · rename_i hp
      obtain ⟨u, hu, ht⟩ := except_bind_eq_ok.1 h
      have := arrow_arrowsLeft hp hu
      exact ih (by omega) ht

theorem runArrows_of_idle {c : HostCmd} (count : Nat) {s : State} (h : s.ph = .idle) : runArrows c count s = .ok s := by
  cases count <;> simp [runArrows, h]

theorem beginCommand_arrowsLeft (c : HostCmd) (s : State) : arrowsLeft (beginCommand c s) ≤ arrowBound s := by
  unfold beginCommand arrowBound
  split
  · simp [arrowsLeft, respond]
  · split
    · exact (afterInitGuard_arrowsLeft c s).trans (by omega)
    · simp [arrowsLeft, enterPhase]

/-- A command that answers has come to its response. -/
theorem runCommand_idle {c : HostCmd} {s t : State} (h : runCommand c s = .ok t) : t.ph = .idle :=
  runArrows_idle_of_enough (arrowBound s) (beginCommand_arrowsLeft c s) h

end Sys2Proof.Machine
end

