-- ==== Sys2Proof/Laws/Word.lean ====
section
/-! SUPPORT. Element access of built arrays and tables, and the algebra of the LFSR step. -/

namespace Sys2Proof

@[simp] theorem tabulate_getElem {α : Type} {n : Nat} (f : Fin n → α) (i : Nat) (h : i < n) :
    (tabulate n f)[i] = f ⟨i, h⟩ := by
  simp [tabulate]

namespace Machine

@[simp] theorem tableAt_tabulate {rows : Nat} (f : Fin rows → Fin 256 → U32) (k : Fin rows) (b : U8) :
    tableAt (tabulate rows fun k => tabulate 256 (f k)) k b = f k ⟨b.toNat, b.isLt⟩ := by
  simp [tableAt]

/-- Two tables with the same elements are one table. -/
theorem table_ext {rows : Nat} (t u : Vector (Vector U32 256) rows)
    (h : ∀ (k : Fin rows) (b : U8), tableAt t k b = tableAt u k b) : t = u := by
  refine Vector.ext fun i hi => Vector.ext fun j hj => ?_
  have hk := h ⟨i, hi⟩ (BitVec.ofNat 8 j)
  have hm : j % 2 ^ 8 = j := Nat.mod_eq_of_lt hj
  simpa only [tableAt, BitVec.toNat_ofNat, hm, Fin.getElem_fin] using hk

@[simp] theorem z1_zero : z1 0#32 = 0#32 := by decide

theorem z1_xor (a b : U32) : z1 (a ^^^ b) = z1 a ^^^ z1 b := by
  unfold z1
  rw [BitVec.getLsbD_xor, BitVec.ushiftRight_xor_distrib]
  rcases ha : a.getLsbD 0 <;> rcases hb : b.getLsbD 0 <;> simp
  · ac_rfl
  · ac_rfl
  · rw [show a >>> 1 ^^^ poly ^^^ (b >>> 1 ^^^ poly) = a >>> 1 ^^^ b >>> 1 ^^^ (poly ^^^ poly) by ac_rfl]
    simp

@[simp] theorem zn_zero_left (n : Nat) : zn 0#32 n = 0#32 := by
  induction n with
  | zero => rfl
  | succ n ih => rw [zn, ih, z1_zero]

theorem zn_xor (a b : U32) (n : Nat) : zn (a ^^^ b) n = zn a n ^^^ zn b n := by
  induction n with
  | zero => rfl
  | succ n ih => rw [zn, ih, z1_xor, zn, zn]

theorem zn_add (v : U32) (m n : Nat) : zn v (m + n) = zn (zn v m) n := by
  induction n with
  | zero => rfl
  | succ n ih => rw [← Nat.add_assoc, zn, ih, zn]

end Machine

end Sys2Proof
end

