-- ==== Sys2Proof/Tests/Slice0.lean ====
section
/-! SUPPORT. Tests: the well-formedness checks and the words of 30_encoding.md, the vectors of 95_test_vectors.md,
and for every obligation with hypotheses a state that meets them. -/

set_option Elab.async false

namespace Sys2Proof.Machine.Tests

/-! ## Helpers -/

/-- The next state, if there is one. -/
def nextOf : Host.Outcome State Fault Refusal → Option State
  | .next t => some t
  | .fault _ => none
  | .refused _ => none

/-- The response and `STATUS` after a step. -/
def response (o : Host.Outcome State Fault Refusal) : Option (U32 × U32) :=
  (nextOf o).map fun t => (t.res, statusWord t)

/-- The reason a step stops, if it does. -/
def faultOf : Host.Outcome State Fault Refusal → Option Fault
  | .next _ => none
  | .fault f => some f
  | .refused _ => none

/-- The result of a micro-operation performed on its own. -/
def outOf (o : Host.Outcome State Fault Refusal) : Option U32 := (nextOf o).map fun t => t.micro.out

theorem fault_of_some {o : Host.Outcome State Fault Refusal} {f : Fault} (h : faultOf o = some f) : o = .fault f := by
  cases o with
  | next t => cases h
  | fault g => cases h; rfl
  | refused r => cases h

theorem next_of_isSome {o : Host.Outcome State Fault Refusal} (h : (nextOf o).isSome = true) :
    ∃ t, o = .next t := by
  cases o with
  | next t => exact ⟨t, rfl⟩
  | fault f => cases h
  | refused r => cases h

/-- The state with a micro-operation's operands in the port. -/
def withPort (vec : U32) (byte : U8) (data : U64) (len : Nat) (s : State) : State :=
  { s with micro := { s.micro with vec := vec, byte := byte, data := data, len := len } }

/-- The nine bytes of V1. -/
def digits : List U8 := [0x31, 0x32, 0x33, 0x34, 0x35, 0x36, 0x37, 0x38, 0x39]

/-- A host memory with the nine bytes of V1 from an address on. -/
def nineMem (addr : Nat) : List Host.Cell := Memory.writeAll [] addr digits

/-- After reset, with the nine bytes of V1 at `0x1000` and the operands naming them. -/
def nine (hwCap : Bool) : State := { State.resetWith hwCap 64 (nineMem 0x1000) with a := 0x1000, n := 9 }

/-- The state with the three tables built, in closed form. -/
def built (s : State) : State :=
  { s with
    initDone := true
    bt := some closedByteTable
    zs := some (closedShiftTable .short)
    zl := some (closedShiftTable .long) }

theorem built_tables (s : State) : TablesBuilt (built s) := fun _ => ⟨rfl, rfl, rfl⟩

theorem fresh_tables (c : Bool) (aw : Nat) (mem : List Host.Cell) : TablesBuilt (State.resetWith c aw mem) := by
  intro h; cases h

/-- The state with a command word written and its command not yet taken. -/
def issued (cw : U32) (s : State) : State := { s with cw := cw, cwPending := true }

/-- `count` zero bytes from address 0, the pointer at 0, the length `count`, the tables built, the phase as given, and
the least width R6 admits. -/
def zeroBytes (hwCap : Bool) (ph : Phase) (count : Nat) : State :=
  { built (State.resetWith hwCap 16 (Memory.fill 0 0 count)) with ph := ph, len := count, n := count }

/-- `OPS` as R60 prints it. -/
def printedOps : Matrix :=
  #v[0xDCB17AA4, 0xBC8E83B9, 0x7CF17183, 0xF9E2E306, 0xF629B0FD, 0xE9BF170B, 0xD69258E7, 0xA8C8C73F,
    0x547DF88F, 0xA8FBF11E, 0x541B94CD, 0xA837299A, 0x558225C5, 0xAB044B8A, 0x53E4E1E5, 0xA7C9C3CA,
    0x4A7FF165, 0x94FFE2CA, 0x2C13B365, 0x582766CA, 0xB04ECD94, 0x6571EDD9, 0xCAE3DBB2, 0x902BC195,
    0x25BBF5DB, 0x4B77EBB6, 0x96EFD76C, 0x2833D829, 0x5067B052, 0xA0CF60A4, 0x4472B7B9, 0x88E56F72]

/-- `OPL` as R60 prints it. -/
def printedOpl : Matrix :=
  #v[0xE040E0AC, 0xC56DB7A9, 0x8F3719A3, 0x1B8245B7, 0x37048B6E, 0x6E0916DC, 0xDC122DB8, 0xBDC82D81,
    0x7E7C2DF3, 0xFCF85BE6, 0xFC1CC13D, 0xFDD5F48B, 0xFE479FE7, 0xF963493F, 0xF72AE48F, 0xEBB9BFEF,
    0xD29F092F, 0xA0D264AF, 0x4448BFAF, 0x88917F5E, 0x14CE884D, 0x299D109A, 0x533A2134, 0xA6744268,
    0x4904F221, 0x9209E442, 0x21FFBE75, 0x43FF7CEA, 0x87FEF9D4, 0x0A118559, 0x14230AB2, 0x28461564]

/-- `ZS` and `ZL` derived from the printed operators, the accumulators of a V19 row. -/
def withPrintedTables (a0 a1 a2 : U32) : State :=
  { State.reset with
    initDone := true
    zs := some (ztabOf printedOps)
    zl := some (ztabOf printedOpl)
    acc0 := a0, acc1 := a1, acc2 := a2 }

/-! ## Well-formedness (R44, R48) -/

theorem test_wf_unassigned_op : (Fields.ofWord 0x00000005).wellFormed = false ∧
    (Fields.ofWord 0x00000005).opAssigned = false := by decide

theorem test_wf_t_on_plain_op : (Fields.ofWord 0x00000102).wellFormed = false ∧
    (Fields.ofWord 0x00000102).tAllowed = false := by decide

theorem test_wf_reserved_bit : (Fields.ofWord 0x80000002).wellFormed = false ∧
    (Fields.ofWord 0x80000002).reservedZero = false := by decide

theorem test_wf_host_word : (Fields.ofWord 0x00000004).hostLegal = true ∧
    (Fields.ofWord 0x00000021).hostLegal = false ∧ (Fields.ofWord 0x00000104).hostLegal = false := by decide

theorem test_wf_select_word : (Fields.ofWord 0x00000114).wellFormed = true := by decide

/-! ## Words written out from R44 and R47: reserved [31:9], T [8], OP [7:0] -/

theorem test_decode_host :
    decode 0b00000000000000000000000_0_00000001 = .ok .init ∧
    decode 0b00000000000000000000000_0_00000010 = .ok .crc32c ∧
    decode 0b00000000000000000000000_0_00000011 = .ok .crcSw ∧
    decode 0b00000000000000000000000_0_00000100 = .ok .crcHw := by decide

theorem test_decode_matrix :
    decode 0b00000000000000000000000_0_00010000 = .ok .mtimes ∧
    decode 0b00000000000000000000000_0_00010001 = .ok .msquare ∧
    decode 0b00000000000000000000000_0_00010010 = .ok .zop := by decide

theorem test_decode_tables :
    decode 0b00000000000000000000000_0_00010011 = .ok (.ztab .short) ∧
    decode 0b00000000000000000000000_1_00010011 = .ok (.ztab .long) ∧
    decode 0b00000000000000000000000_0_00010100 = .ok (.shift .short) ∧
    decode 0b00000000000000000000000_1_00010100 = .ok (.shift .long) ∧
    decode 0b00000000000000000000000_0_00010101 = .ok (.combine .short) ∧
    decode 0b00000000000000000000000_1_00010101 = .ok (.combine .long) ∧
    decode 0b00000000000000000000000_0_00011000 = .ok .btab := by decide

theorem test_decode_software :
    decode 0b00000000000000000000000_0_00100000 = .ok .swb ∧
    decode 0b00000000000000000000000_0_00100001 = .ok .sww ∧
    decode 0b00000000000000000000000_0_00100010 = .ok .sw1 ∧
    decode 0b00000000000000000000000_0_00100011 = .ok .sw3s ∧
    decode 0b00000000000000000000000_0_00100100 = .ok .sw3l := by decide

theorem test_decode_hardware :
    decode 0b00000000000000000000000_0_00110000 = .ok .hwb ∧
    decode 0b00000000000000000000000_0_00110001 = .ok .hww ∧
    decode 0b00000000000000000000000_0_00110010 = .ok .hw1 ∧
    decode 0b00000000000000000000000_0_00110011 = .ok .hw3s ∧
    decode 0b00000000000000000000000_0_00110100 = .ok .hw3l ∧
    decode 0b00000000000000000000000_0_01000000 = .ok .detect := by decide

theorem test_decode_rejects :
    decode 0x00000000 = .error .unassignedOp ∧ decode 0x00000005 = .error .unassignedOp ∧
    decode 0x00000016 = .error .unassignedOp ∧ decode 0x00000102 = .error .tBit ∧
    decode 0x80000002 = .error .reservedBits ∧ decode 0x00000213 = .error .reservedBits := by decide

theorem test_decodeTableWord :
    decodeTableWord 32 0x113 = some (.ztab .long) ∧ decodeTableWord 8 0x40 = some .detect := by decide

/-! ## Vectors -/

/-- V10 -/
theorem test_mtimes : outOf (exec .mtimes (withPort 0xDEADBEEF 0 0 0 (setOdd zbase State.reset))) =
    some 0xEDA0E40F := by decide +kernel

/-- V10: the operator `OPS` of R60 -/
theorem test_mtimes_ops : outOf (exec .mtimes (withPort 0xDEADBEEF 0 0 0 (setEven printedOps State.reset))) =
    some 0xDD1B866B := by decide +kernel

/-- V11: words 0 and 1 of the square of `ZBASE`, in the other scratch matrix -/
theorem test_msquare :
    ((nextOf (exec .msquare (setOdd zbase State.reset))).bind fun t => t.meven.map fun m => (m[0], m[1])) =
      some (0x417B1DBC, 0x82F63B78) := by decide +kernel

/-- V12: word 0 of `ZOP(1)` -/
theorem test_zop : ((nextOf (exec .zop (withPort 0 0 0 1 State.reset))).bind fun t => t.meven.map fun m => m[0]) =
    some 0xF26B8303 := by decide +kernel

/-- V18, meaning check: 256 zero bytes from `0x12345678` -/
theorem test_zn_256 : zn 0x12345678 2048 = 0x285C7528 := by decide +kernel

/-- V16, from the printed operator: `ZS[3][0xFF]` -/
theorem test_ztab_short :
    ((nextOf (exec (.ztab .short) (setEven printedOps State.reset))).bind fun t =>
      t.zs.map fun tab => (tableAt tab 0 0x80, tableAt tab 3 0xFF)) =
      some (0xA8C8C73F, 0xEC2F1915) := by decide +kernel

/-- V17, from the printed operator: `ZL[1][0xFF]` -/
theorem test_ztab_long :
    ((nextOf (exec (.ztab .long) (setOdd printedOpl State.reset))).bind fun t =>
      t.zl.map fun tab => (tableAt tab 0 0x01, tableAt tab 1 0xFF)) =
      some (0xE040E0AC, 0x98FACE1B) := by decide +kernel

/-- V18 -/
theorem test_shift : outOf (exec (.shift .short) (withPort 0xDEADBEEF 0 0 0 (withPrintedTables 0 0 0))) =
      some 0xDD1B866B ∧
    outOf (exec (.shift .long) (withPort 0xDEADBEEF 0 0 0 (withPrintedTables 0 0 0))) = some 0x75DA4160 := by
  decide +kernel

/-- V19 -/
theorem test_combine_short :
    ((nextOf (exec (.combine .short) (withPrintedTables 0x3939E0D0 0xC5B176CB 0x8FBE9BDB))).map fun t =>
      (t.acc0, t.acc1, t.acc2)) = some (0x3357B58E, 0xC5B176CB, 0x8FBE9BDB) := by decide +kernel

/-- V19 -/
theorem test_combine_long :
    ((nextOf (exec (.combine .long) (withPrintedTables 0xDEADBEEF 0x12345678 0x9ABCDEF0))).map fun t => t.acc0) =
      some 0x62FDC883 := by decide +kernel

/-- V15: entries of the rows 0, 1, 3 and 7 -/
theorem test_btab :
    ((nextOf (exec .btab State.reset)).bind fun t => t.bt.map fun tab =>
      [tableAt tab 0 0xFF, tableAt tab 1 0x02, tableAt tab 3 0x80, tableAt tab 7 0x01]) =
      some [0xAD7D5351, 0x274530EE, 0x52A0C93F, 0x493C7D27] := by decide +kernel

/-- V21 -/
theorem test_swb : outOf (exec .swb (withPort 0x12345678 0x9A 0 0 (built State.reset))) = some 0x0219ECBB := by
  decide +kernel

/-- V22 -/
theorem test_sww : outOf (exec .sww (withPort 0x12345678 0 0x0123456789ABCDEF 0 (built State.reset))) =
    some 0xA3D207BE := by decide +kernel

/-- V21, V24 -/
theorem test_hwb : outOf (exec .hwb (withPort 0xFFFFFFFF 0x31 0 0 State.reset)) = some 0x6F0A661C := by
  decide +kernel

/-- V22, V25 -/
theorem test_hww : outOf (exec .hww (withPort 0xFFFFFFFF 0 0x3837363534333231 0 State.reset)) =
    some 0x9F787F65 := by decide +kernel

/-- V1: the raw state after the nine bytes, from an aligned address, by SW1 -/
theorem test_sw1 : ((nextOf (exec .sw1 { built (nine false) with acc0 := 0xFFFFFFFF, next := 0x1000, len := 9 })).map
    fun t => (t.acc0, t.next, t.len)) = some (0x1CF96D7C, 0x1009, 0) := by decide +kernel

/-- V1, V49: from address `0x1003`, by HW1 -/
theorem test_hw1 :
    ((nextOf (exec .hw1 { State.resetWith true 64 (nineMem 0x1003) with acc0 := 0xFFFFFFFF, next := 0x1003, len := 9 })).map
      fun t => (t.acc0, t.next, t.len)) = some (0x1CF96D7C, 0x100C, 0) := by decide +kernel

/-- V20: one word of each lane, iteration 0 -/
theorem test_lane_iteration :
    (match laneIteration .hardware 256 0
        { State.resetWith true 64
            (Memory.writeAll (Memory.writeAll (Memory.writeAll []
              0x1000 [0x07, 0x26, 0x45, 0x64, 0x83, 0xA2, 0xC1, 0xE0])
              0x1100 [0x08, 0x27, 0x46, 0x65, 0x84, 0xA3, 0xC2, 0xE1])
              0x1200 [0x09, 0x28, 0x47, 0x66, 0x85, 0xA4, 0xC3, 0xE2]) with
          acc0 := 0xFFFFFFFF, next := 0x1000, len := 768 } with
      | .ok t => some (t.acc0, t.acc1, t.acc2)
      | .error _ => none) = some (0xBF86A38D, 0x6A5066B6, 0x7EE028F4) := by decide +kernel

/-- V26a, V26b -/
theorem test_init : response (step (issued 0x01 (State.resetWith true 64 []))) = some (0, 0x27) ∧
    response (step (issued 0x01 (State.resetWith false 64 []))) = some (0, 0x05) := by decide +kernel

/-- V26d -/
theorem test_crcSw : response (step (issued 0x03 (nine true))) = some (0xE3069283, 0x21) := by decide +kernel

/-- V1 with `AW` 16: the buffer ends at the top of the address space, which R33 allows. -/
theorem test_crcSw_top :
    response (step (issued 0x03 { State.resetWith true 16 (nineMem 0xFFF7) with a := 0xFFF7, n := 9 })) =
      some (0xE3069283, 0x21) := by decide +kernel

/-- R19: with `AW` 16 the bits above the low 16 are ignored. -/
theorem test_hostWrite_width :
    ((hostWrite 1 0x12345 (State.resetWith true 16 [])).map fun t => t.a) = some 0x2345 ∧
    ((hostWrite 2 0x12345 (State.resetWith true 64 [])).map fun t => t.n) = some 0x12345 := by decide +kernel

/-- V28b -/
theorem test_crcHw : response (step (issued 0x04 (nine true))) = some (0xE3069283, 0x21) := by decide +kernel

/-- V28a -/
theorem test_crcHw_unavailable : response (step (issued 0x04 (nine false))) = some (0, 0x10) := by decide +kernel

/-- PR1 -/
theorem test_crc32c : response (step (issued 0x02 (nine false))) = some (0xE3069283, 0x05) ∧
    response (step (issued 0x02 (nine true))) = some (0xE3069283, 0x27) := by decide +kernel

/-- V4: the second half with a seed -/
theorem test_crc32c_seed :
    response (step (issued 0x02 { built (nine true) with a := 0x1004, n := 5, seed := 0xFFA3E9FA })) =
      some (0xDD05F9CD, 0x27) := by decide +kernel

/-- V27a to V27e -/
theorem test_illegal :
    response (step (issued 0x00000000 (nine false))) = some (0, 0x08) ∧
    response (step (issued 0x00000021 (nine false))) = some (0, 0x08) ∧
    response (step (issued 0x00000102 (nine false))) = some (0, 0x08) ∧
    response (step (issued 0x80000002 (nine false))) = some (0, 0x08) ∧
    response (step (issued 0x00000005 (nine false))) = some (0, 0x08) := by decide +kernel

theorem test_detect :
    ((nextOf (exec .detect (State.resetWith true 64 []))).map fun t => statusWord t) = some 0x26 ∧
    ((nextOf (exec .detect (State.resetWith false 64 []))).map fun t => statusWord t) = some 0x04 := by decide +kernel

/-- R51 and PR2: the register writes of a CRCNEXT line -/
theorem test_crcNext :
    ((issueLine (.crcNext 0x1004 5) { built (nine true) with res := 0xF63AF4EE, resValid := true }).map fun t =>
      (t.a, t.n, t.seed, t.cw)) = some (0x1004, 5, 0xF63AF4EE, 0x00000002) := by decide +kernel

/-- The word a host writes is what the next step performs; the word of a micro-operation too. -/
theorem test_withFetchWord :
    response (step (State.reset.withFetchWord 32 0x01)) = some (0, 0x27) ∧
    ((nextOf (step (State.reset.withFetchWord 32 0x40))).map fun t => t.bind) = some .boundHardware ∧
    (nextOf (step (State.reset.withFetchWord 32 0x18))).isSome = true := by decide +kernel

/-- U1: a byte the host's memory does not admit -/
theorem test_unreadable : faultOf (exec .crcHw { nine true with n := 10 }) = some .unreadableAddress := by
  decide +kernel

/-! ## Witnesses: a state and operands that meet the hypotheses of each obligation -/

theorem ok_of_isOk {x : Except Fault State} (h : x.isOk = true) : ∃ t, x = .ok t := by
  cases x with
  | ok t => exact ⟨t, rfl⟩
  | error f => cases h

/-- The pointer, the length and the phase as given. -/
def inBody (ph : Phase) (next len : Nat) (s : State) : State := { s with ph := ph, next := next, len := len }

theorem zeroBytes_read (c : Bool) (ph : Phase) (count i : Nat) (hi : i < count) (hc : count < 2 ^ 16) :
    memRead1 (zeroBytes c ph count) i = .ok 0 :=
  memRead1_fill (addr := 0) (count := count) rfl (by omega) (by omega) (show i < 2 ^ 16 by omega)

/-- The bytes are all readable. -/
theorem zeroBytes_buffer (c : Bool) (ph : Phase) (count : Nat) (hc : count < 2 ^ 16) :
    ∃ d, bufferBytes (zeroBytes c ph count) 0 count = some d :=
  (bufferBytes_isSome_iff _ _ _).2 fun i hi =>
    ⟨0, by rw [Nat.zero_add]; exact zeroBytes_read c ph count i hi hc⟩

/-- Three blocks fit where `AW` is 16 (R6). -/
theorem block_lt (which : TableSel) : 3 * blockOf which < 2 ^ 16 := by cases which <;> decide +kernel

theorem zeroBytes_group (e : Engine) (which : TableSel) (ph : Phase) :
    ∃ t, group e which (zeroBytes true ph (3 * blockOf which)) = .ok t := by
  have hlt := block_lt which
  have hnext : (zeroBytes true ph (3 * blockOf which)).next = 0 := rfl
  refine group_answers rfl (by cases which <;> exact ⟨_, rfl⟩) ?_ rfl (le_refl (3 * blockOf which)) ?_
    (by rw [hnext, Nat.zero_add]; exact hlt)
  · intro a w
    cases e with
    | software => exact ⟨_, software_wordStep rfl rfl a w⟩
    | hardware => exact ⟨_, hardware_wordStep rfl a w⟩
  · intro i hi
    rw [hnext, Nat.zero_add]
    exact ⟨0, zeroBytes_read true ph _ i hi hlt⟩

theorem witness_HostPortAdmitsFourWords (w : U32) : (issued w State.reset).micro.slot = none ∧
    (issued w State.reset).ph = .idle ∧ (issued w State.reset).cwPending = true := ⟨rfl, rfl, rfl⟩

theorem witness_HostPortAdmitsFourWords_clauses :
    ((0x01 : U32).extractLsb' 8 24 = 0 ∧ (0x01 : U32).extractLsb' 0 8 = 0x01) ∧
    ((0x02 : U32).extractLsb' 8 24 = 0 ∧ (0x02 : U32).extractLsb' 0 8 = 0x02) ∧
    ((0x03 : U32).extractLsb' 8 24 = 0 ∧ (0x03 : U32).extractLsb' 0 8 = 0x03) ∧
    ((0x04 : U32).extractLsb' 8 24 = 0 ∧ (0x04 : U32).extractLsb' 0 8 = 0x04) ∧
    (0x102 : U32).extractLsb' 8 24 ≠ 0 ∧
    (0x00 : U32).extractLsb' 0 8 ∉ ([0x01, 0x02, 0x03, 0x04] : List (BitVec 8)) ∧
    (0x05 : U32).extractLsb' 0 8 ∉ ([0x01, 0x02, 0x03, 0x04] : List (BitVec 8)) := by decide

theorem witness_StepRunsTheDecodedOperation :
    ((State.reset.withFetchWord 32 0x40).micro.slot = some 0x40 ∧ decode 0x40 = .ok .detect ∧
      hostCmdOf .detect = none) ∧
    ((issued 0x02 State.reset).micro.slot = none ∧ (issued 0x02 State.reset).ph = .idle ∧
      (issued 0x02 State.reset).cwPending = true ∧ decode (issued 0x02 State.reset).cw = .ok (instrOf .crc32c)) ∧
    ((inBody .p 0 0 { State.reset with cw := 0x03 }).ph ≠ .idle ∧ decode 0x03 = .ok (instrOf .crcSw)) ∧
    (State.reset.micro.slot = none ∧ State.reset.ph = .idle ∧ State.reset.cwPending = false) := by decide +kernel

/-- Every arrow of R24 out of the body's phases, where it consumes and where it goes on; the long group below. -/
theorem witness_PhaseArrowsFollowTheDiagram :
    (∃ t, arrow .crcHw (inBody .p 0x1001 8 (built (nine true))) = .ok t) ∧
    (∃ t, arrow .crcHw (inBody .p 0x1008 1 (built (nine true))) = .ok t) ∧
    (∃ t, arrow .crcHw (inBody .p 0x1009 0 (built (nine true))) = .ok t) ∧
    (∃ t, arrow .crcHw (inBody .l 0x1000 9 (built (nine true))) = .ok t) ∧
    (∃ t, arrow .crcHw (inBody .s 0x1000 767 (built (nine true))) = .ok t) ∧
    (∃ t, arrow .crcSw (inBody .w 0x1000 8 (built (nine true))) = .ok t) ∧
    (∃ t, arrow .crcSw (inBody .w 0x1000 7 (built (nine true))) = .ok t) ∧
    (∃ t, arrow .crcSw (inBody .t 0x1008 1 (built (nine true))) = .ok t) ∧
    (∃ t, arrow .crcSw (inBody .t 0x1009 0 (built (nine true))) = .ok t) := by
  refine ⟨?_, ?_, ?_, ?_, ?_, ?_, ?_, ?_, ?_⟩ <;> exact ok_of_isOk (by decide +kernel)

theorem arrow_group {s t : State} {c : HostCmd} {e : Engine} {which : TableSel} (he : engineFor c s = .ok e)
    (hp : (which = .long ∧ s.ph = .l) ∨ (which = .short ∧ s.ph = .s)) (h : group e which s = .ok t) :
    arrow c s = .ok t := by
  have hf := (group_eq_ok h).1
  rcases hp with ⟨rfl, hp⟩ | ⟨rfl, hp⟩ <;> simp [arrow, hp, he, hf, h]

theorem witness_PhaseArrowsFollowTheDiagram_groups :
    (∃ t, arrow .crcHw (zeroBytes true .l (3 * blockOf .long)) = .ok t) ∧
    (∃ t, arrow .crcSw (zeroBytes true .s (3 * blockOf .short)) = .ok t) :=
  ⟨(zeroBytes_group .hardware .long .l).imp fun _ h => arrow_group rfl (.inl ⟨rfl, rfl⟩) h,
    (zeroBytes_group .software .short .s).imp fun _ h => arrow_group rfl (.inr ⟨rfl, rfl⟩) h⟩

theorem witness_PointerPlusLengthStays :
    (∃ t, arrow .crcHw (inBody .p 0x1001 8 (built (nine true))) = .ok t ∧ t.ph ≠ .idle) ∧
    (inBody .p 0x1001 8 (built (nine true))).next + (inBody .p 0x1001 8 (built (nine true))).len <
      2 ^ (inBody .p 0x1001 8 (built (nine true))).aw := by
  refine ⟨?_, by decide +kernel⟩
  obtain ⟨t, ht⟩ := ok_of_isOk (x := arrow .crcHw (inBody .p 0x1001 8 (built (nine true)))) (by decide +kernel)
  refine ⟨t, ht, ?_⟩
  cases arrow_cases ht with
  | idle ph => cases ph
  | init ph => cases ph
  | detect ph => cases ph
  | body e _ does =>
    cases does with
    | prologue _ _ _ moved => rw [moved.ph]; nofun
    | prologueEnds _ _ does => rw [does]; nofun
    | long ph | longEnds ph | short ph | shortEnds ph | word ph | wordEnds ph | tail ph | responds ph => cases ph

theorem nine_buffer (c : Bool) : bufferBytes (built (nine c)) 0x1000 9 = some digits := by
  cases c <;> decide +kernel

theorem witness_PhaseByteCounts :
    (∃ e, engineFor .crcHw (built (nine true)) = .ok e ∧ EngineReady e (built (nine true))) ∧
    bufferBytes (built (nine true)) (built (nine true)).a (built (nine true)).n = some digits :=
  ⟨⟨.hardware, rfl, rfl, fun _ => ⟨rfl, rfl, rfl⟩, fun _ => rfl⟩, nine_buffer true⟩

theorem witness_ArrowsReachTheResponse :
    (nine true).micro.slot = none ∧ (nine true).cwPending = false ∧
    ({ nine true with cw := 0x04 }).cw = encode (instrOf .crcHw) ∧
    ∃ t, exec (instrOf .crcHw) { nine true with cw := 0x04 } = .next t :=
  ⟨rfl, rfl, by decide, next_of_isSome (by decide +kernel)⟩

/-- A CRC_SW command in its phase `W`. -/
def inWords : State := inBody .w 0x1000 9 { built (nine true) with cw := 0x03 }

theorem inWords_inv : Inv inWords where
  width := by decide
  aFits := by decide +kernel
  nFits := by decide +kernel
  memWf := by decide +kernel
  slotEmpty := rfl
  tables := fun _ => ⟨rfl, rfl, rfl⟩
  bind := ⟨nofun, nofun⟩
  detecting := nofun
  pending := nofun
  inProgress := fun _ => ⟨.crcSw, by decide, by
    refine ⟨⟨rfl, by decide, nofun, nofun, by decide +kernel, by decide +kernel, fun _ => by decide⟩, fun _ => by decide, ?_⟩
    decide⟩

theorem witness_EveryStepKeepsTheInvariant : Inv inWords ∧ ∃ t, step inWords = .next t :=
  ⟨inWords_inv, next_of_isSome (by decide +kernel)⟩

theorem reset_inv : Inv State.reset where
  width := by decide
  aFits := by decide +kernel
  nFits := by decide +kernel
  memWf := rfl
  slotEmpty := rfl
  tables := nofun
  bind := ⟨nofun, nofun⟩
  detecting := nofun
  pending := nofun
  inProgress := fun h => absurd rfl h

theorem witness_InvariantHoldsAtReset : 16 ≤ 16 ∧ 16 ≤ (nine true).aw := by decide

theorem witness_HostMovesKeepTheInvariant : Inv State.reset ∧ (∃ t, hostWrite 1 0x1000 State.reset = some t) ∧
    ∃ t, hostPoke 0x1000 0x31 State.reset = some t :=
  ⟨reset_inv, ⟨_, rfl⟩, ⟨_, rfl⟩⟩

theorem witness_BindingIsTerminal :
    (∃ t, step { nine true with bind := .boundHardware } = .next t) ∧
    (∃ t, step { nine false with bind := .boundSoftware } = .next t) :=
  ⟨⟨_, rfl⟩, ⟨_, rfl⟩⟩

theorem witness_TablesAreWrittenOnce : Inv inWords ∧ inWords.initDone = true ∧ ∃ t, step inWords = .next t :=
  ⟨inWords_inv, rfl, next_of_isSome (by decide +kernel)⟩

theorem witness_NoStepWritesTheHostSide : ∃ t, step (issued 0x03 (nine true)) = .next t :=
  next_of_isSome (by decide +kernel)

theorem witness_WordReadIsLittleEndian : 0x1000 % 8 = 0 ∧
    ∀ j : Fin 8, memRead1 (nine true) (0x1000 + j.val) = .ok (0x31 + BitVec.ofNat 8 j.val) :=
  ⟨rfl, fun j => (memRead1_ok_iff _ _ _).2 ⟨by have := j.isLt; show 0x1000 + j.val < 2 ^ 64; omega, by revert j; decide +kernel⟩⟩

theorem witness_MisalignedWordReadStops : 0x1001 % 8 ≠ 0 := by decide

/-- For `HostByteIsReadBack` and the statement on the program lines. -/
theorem witness_hostMayMove : hostMayMove (nine true) = true ∧ Memory.wf (nine true).aw (nine true).mem = true ∧
    0x1000 < 2 ^ (nine true).aw ∧ 2 ^ (nine true).aw - 1 < 2 ^ (nine true).aw ∧ 2 ^ (nine true).aw ≤ 2 ^ 64 := by
  decide +kernel

/-- Also for the clause of the program lines on a pending result. -/
theorem witness_HostRegistersAreTheMap : hostMayMove { nine true with resValid := true } = true ∧
    ({ nine true with resValid := true }).resValid = true := by decide +kernel

/-- For the matrix product, the square and the row of a table. -/
theorem witness_currentMatrix : currentMatrix (setOdd zbase State.reset) = .ok zbase ∧
    currentMatrix (setEven (tabulate 32 fun _ => 0) State.reset) = .ok (tabulate 32 fun _ => 0) ∧
    currentMatrix (setEven (tabulate 32 fun n => (1 : U32) <<< n.val) State.reset) =
      .ok (tabulate 32 fun n => (1 : U32) <<< n.val) ∧
    (setOdd zbase State.reset).scratch = .odd ∧ (setEven zbase State.reset).scratch = .even ∧
    (∀ n : Fin 32, (tabulate 32 fun _ => (0 : U32))[n] = 0) ∧
    (∀ n : Fin 32, (tabulate 32 fun n => (1 : U32) <<< n.val)[n] = (1 : U32) <<< n.val) := by
  refine ⟨rfl, rfl, rfl, rfl, rfl, ?_, ?_⟩ <;> decide +kernel

theorem witness_ZopIsTheZeroByteOperator :
    (2 ^ 8 ≤ (withPort 0 0 0 511 State.reset).micro.len ∧
      (withPort 0 0 0 511 State.reset).micro.len < 2 ^ (8 + 1)) ∧
    (2 ^ 0 ≤ (withPort 0 0 0 1 State.reset).micro.len ∧
      (withPort 0 0 0 1 State.reset).micro.len < 2 ^ (0 + 1)) ∧
    (2 ^ 13 ≤ (withPort 0 0 0 8192 State.reset).micro.len ∧
      (withPort 0 0 0 8192 State.reset).micro.len < 2 ^ (13 + 1)) := by decide +kernel

theorem witness_ZopOfZeroBytesIsRefused : (withPort 0 0 0 0 State.reset).micro.len = 0 := rfl

/-- For the software steps, the shift, the operators and tables, and the combination. -/
theorem witness_tables : (built State.reset).initDone = true ∧ TablesBuilt (built State.reset) ∧
    shiftTable (built State.reset) .short = some (closedShiftTable .short) ∧
    shiftTable (built State.reset) .long = some (closedShiftTable .long) ∧
    (built State.reset).bt = some closedByteTable :=
  ⟨rfl, fun _ => ⟨rfl, rfl, rfl⟩, rfl, rfl, rfl⟩

theorem witness_OperatorsTablesAndShiftAgree (which : TableSel) : ∃ (t : State) (m : Matrix),
    zop (blockOf which) State.reset = .ok t ∧ currentMatrix t = .ok m :=
  (zop_spec (blockOf which) State.reset).imp fun _ h => ⟨_, h.1, h.2.1⟩

theorem witness_Sw1IsTheByteOracle : (inBody .idle 0x1000 9 (built (nine false))).initDone = true ∧
    TablesBuilt (inBody .idle 0x1000 9 (built (nine false))) ∧
    bufferBytes (inBody .idle 0x1000 9 (built (nine false))) 0x1000 9 = some digits ∧
    (inBody .idle 0x1000 0 (nine false)).len = 0 :=
  ⟨rfl, fun _ => ⟨rfl, rfl, rfl⟩, (bufferBytes_congr (t := built (nine false)) rfl rfl _ _).trans (nine_buffer false), rfl⟩

theorem witness_Hw1IsTheByteOracle : (inBody .idle 0x1000 9 (built (nine true))).hwCap = true ∧
    bufferBytes (inBody .idle 0x1000 9 (built (nine true))) 0x1000 9 = some digits :=
  ⟨rfl, (bufferBytes_congr (t := built (nine true)) rfl rfl _ _).trans (nine_buffer true)⟩

/-- The premises of SoftwareGroupsAreTheByteOracle and HardwareGroupsAreTheByteOracle, for both blocks. -/
theorem witness_groups (which : TableSel) :
    (zeroBytes true .idle (3 * blockOf which)).hwCap = true ∧
    (zeroBytes true .idle (3 * blockOf which)).initDone = true ∧
    TablesBuilt (zeroBytes true .idle (3 * blockOf which)) ∧
    (zeroBytes true .idle (3 * blockOf which)).next % 8 = 0 ∧
    3 * blockOf which ≤ (zeroBytes true .idle (3 * blockOf which)).len ∧
    (∃ d, bufferBytes (zeroBytes true .idle (3 * blockOf which)) 0 (3 * blockOf which) = some d) ∧
    (zeroBytes true .idle (3 * blockOf which)).next + 3 * blockOf which < 2 ^ (zeroBytes true .idle (3 * blockOf which)).aw := by
  have hlt := block_lt which
  refine ⟨rfl, rfl, fun _ => ⟨rfl, rfl, rfl⟩, rfl, le_refl (3 * blockOf which), zeroBytes_buffer _ _ _ hlt, ?_⟩
  rw [show (zeroBytes true .idle (3 * blockOf which)).next = 0 from rfl, Nat.zero_add]
  exact hlt

theorem witness_GroupStopsBelowItsLength : (inBody .idle 0 767 State.reset).len < 768 ∧
    (inBody .idle 0 24575 State.reset).len < 24576 := by decide +kernel

/-- The premises of the checksum commands' results, with the tables built and from reset: of
`CrcSwRespondsByteCrc`, `CrcHwRespondsByteCrc`, `Crc32cRespondsByteCrc`, `EnginesAnswerTheSame`
and `CrcHwWithoutTheUnitIsUnavailable`; its values of the unit's presence also meet the premises
of the two hardware steps and of the stop of an absent unit. -/
theorem witness_checksums (c : Bool) :
    (TablesBuilt (built (nine c)) ∧ bufferBytes (built (nine c)) (built (nine c)).a (built (nine c)).n =
      some digits) ∧
    (TablesBuilt (nine c) ∧ bufferBytes (nine c) (nine c).a (nine c).n = some digits) ∧
    (nine true).hwCap = true ∧ (nine false).hwCap = false ∧
    BindFits (nine c) ∧ (nine c).bind ≠ .detecting ∧
    BindFits { nine true with bind := .boundHardware } ∧ BindFits { nine false with bind := .boundSoftware } :=
  ⟨⟨fun _ => ⟨rfl, rfl, rfl⟩, nine_buffer c⟩, ⟨nofun, by cases c <;> decide +kernel⟩, rfl, rfl,
    ⟨nofun, nofun⟩, by simp [nine, State.resetWith],
    ⟨fun _ => rfl, nofun⟩, ⟨nofun, fun _ => rfl⟩⟩

/-- The arrows of a command in phase `T` with a byte left, and in phase `W`. -/
theorem witness_EnginesAnswerTheSame_arrows :
    (inBody .t 0x1008 1 (built (nine true))).initDone = true ∧ (inBody .t 0x1008 1 (built (nine true))).hwCap = true ∧
    TablesBuilt (inBody .t 0x1008 1 (built (nine true))) ∧ (inBody .t 0x1008 1 (built (nine true))).len ≠ 0 ∧
    (inBody .w 0x1000 9 (built (nine true))).ph ≠ .t :=
  ⟨rfl, rfl, fun _ => ⟨rfl, rfl, rfl⟩, by decide, by decide⟩

theorem witness_DetectBindsByCapability : (nine true).bind = .uninitialized ∧ (nine true).hwCap = true ∧
    (nine false).hwCap = false ∧ ({ nine true with bind := .detecting }).bind ≠ .uninitialized := by decide +kernel

theorem witness_InitBuildsAndBindsOnce : TablesBuilt (nine true) ∧
    TablesBuilt { built (nine true) with bind := .boundHardware } ∧
    (built (nine true)).initDone = true ∧ ({ built (nine true) with bind := .boundHardware }).bind ≠ .uninitialized :=
  ⟨nofun, fun _ => ⟨rfl, rfl, rfl⟩, rfl, by simp⟩

theorem witness_EmptyBufferReturnsTheSeed : ({ nine true with n := 0 }).n = 0 ∧ (nine true).hwCap = true ∧
    (nine true).bind ≠ .detecting := ⟨rfl, rfl, by simp [nine, State.resetWith]⟩

theorem witness_ChainingEqualsOneShot : TablesBuilt (nine true) ∧ BindFits (nine true) ∧
    (nine true).bind ≠ .detecting ∧ bufferBytes (nine true) (nine true).a (nine true).n = some digits ∧
    4 ≤ (nine true).n ∧ 9 ≤ (nine true).n :=
  ⟨nofun, (witness_checksums true).2.2.2.2.1, by simp [nine, State.resetWith],
    (witness_checksums true).2.1.2, by decide +kernel, by decide +kernel⟩

/-- V5, byte 8 bit 0 -/
theorem witness_OneFlippedBitChangesTheResult : TablesBuilt (nine true) ∧ BindFits (nine true) ∧
    bufferBytes (nine true) (nine true).a (nine true).n = some digits ∧
    bufferBytes { nine true with mem := Memory.write (nineMem 0x1000) 0x1008 0x38 } (nine true).a
      (nine true).n = some (digits.set 8 (0x39 ^^^ ((1 : U8) <<< 0))) ∧
    (∃ t, exec .crc32c (nine true) = .next t) ∧
    ∃ t, exec .crc32c { nine true with mem := Memory.write (nineMem 0x1000) 0x1008 0x38 } = .next t :=
  ⟨nofun, (witness_checksums true).2.2.2.2.1, (witness_checksums true).2.1.2, by decide +kernel,
    next_of_isSome (by decide +kernel), next_of_isSome (by decide +kernel)⟩

/-- Also for the frame of the host's commands. -/
theorem witness_EveryCommandResponds :
    (∃ t, exec (instrOf .init) (nine false) = .next t) ∧ (∃ t, exec (instrOf .crcHw) (nine false) = .next t) ∧
    (∃ t, exec (instrOf .crc32c) (nine false) = .next t) ∧ (∃ t, exec (instrOf .crcSw) (nine true) = .next t) := by
  refine ⟨?_, ?_, ?_, ?_⟩ <;> exact next_of_isSome (by decide +kernel)

theorem witness_UnreadableBufferIsStuck : TablesBuilt { nine true with n := 10 } ∧ BindFits { nine true with n := 10 } ∧
    bufferBytes { nine true with n := 10 } 0x1000 10 = none ∧
    TablesBuilt { nine true with a := 2 ^ 64 - 1, n := 2 } ∧
    bufferBytes { nine true with a := 2 ^ 64 - 1, n := 2 } (2 ^ 64 - 1) 2 = none :=
  ⟨nofun, (witness_checksums true).2.2.2.2.1, by decide +kernel, nofun, by decide +kernel⟩

/-- A byte outside the buffer differs; the command answers, and stops where the buffer is not all readable. -/
theorem witness_OnlyTheBufferMatters :
    (∀ addr : Nat, (nine true).a ≤ addr → addr < (nine true).a + (nine true).n →
      Memory.read (Memory.write (nine true).mem 0x2000 0xFF) addr = Memory.read (nine true).mem addr) ∧
    (∃ t, exec (instrOf .crcHw) (nine true) = .next t) ∧
    ∃ f, exec (instrOf .crcHw) { nine true with n := 10 } = .fault f := by
  refine ⟨?_, next_of_isSome (by decide +kernel), ⟨_, fault_of_some test_unreadable⟩⟩
  intro addr h1 h2
  have e1 : (nine true).a = 0x1000 := rfl
  have e2 : (nine true).n = 9 := rfl
  rw [e1] at h1 h2
  rw [e2] at h2
  have hall : ∀ i : Fin 9, Memory.read (Memory.write (nine true).mem 0x2000 0xFF) (0x1000 + i.val) =
      Memory.read (nine true).mem (0x1000 + i.val) := by decide +kernel
  have := hall ⟨addr - 0x1000, by omega⟩
  rwa [show 0x1000 + (addr - 0x1000) = addr by omega] at this

theorem witness_UnbuiltTablesAreNotRead : State.reset.initDone = false ∧ State.reset.meven = none ∧
    State.reset.modd = none := by decide

/-- Each micro-operation answers a next state somewhere. -/
theorem witness_MicroOperationsKeepTheirFrame :
    ∀ i ∈ ([.mtimes, .msquare, .zop, .btab, .shift .short, .shift .long, .combine .short, .combine .long, .swb, .sww,
        .sw1, .hwb, .hww, .hw1, .ztab .short, .ztab .long, .detect] : List Instr),
      (nextOf (exec i (inBody .idle 0x1000 9 (setOdd zbase (built (nine true)))))).isSome = true := by decide +kernel

theorem exec_group {s t : State} (i : Instr) {e : Engine} {which : TableSel}
    (hi : (i = .sw3s ∧ e = .software ∧ which = .short) ∨ (i = .sw3l ∧ e = .software ∧ which = .long) ∨
      (i = .hw3s ∧ e = .hardware ∧ which = .short) ∨ (i = .hw3l ∧ e = .hardware ∧ which = .long))
    (h : group e which s = .ok t) : exec i s = .next t := by
  rcases hi with ⟨rfl, rfl, rfl⟩ | ⟨rfl, rfl, rfl⟩ | ⟨rfl, rfl, rfl⟩ | ⟨rfl, rfl, rfl⟩ <;>
    exact toOutcome_eq_next.2 h

theorem witness_MicroOperationsKeepTheirFrame_groups :
    (∃ t, exec .sw3s (zeroBytes true .idle (3 * blockOf .short)) = .next t) ∧
    (∃ t, exec .sw3l (zeroBytes true .idle (3 * blockOf .long)) = .next t) ∧
    (∃ t, exec .hw3s (zeroBytes true .idle (3 * blockOf .short)) = .next t) ∧
    (∃ t, exec .hw3l (zeroBytes true .idle (3 * blockOf .long)) = .next t) :=
  ⟨(zeroBytes_group .software .short .idle).imp fun _ h => exec_group .sw3s (by simp) h,
    (zeroBytes_group .software .long .idle).imp fun _ h => exec_group .sw3l (by simp) h,
    (zeroBytes_group .hardware .short .idle).imp fun _ h => exec_group .hw3s (by simp) h,
    (zeroBytes_group .hardware .long .idle).imp fun _ h => exec_group .hw3l (by simp) h⟩

end Sys2Proof.Machine.Tests
end

section
/-! PROOFS. The matrix algebra of 40_gf2_matrix.md as linear maps, and the tables the engine builds in the closed form
of 10_state.md rules R12 and R13. -/

namespace Sys2Proof.Machine

/-! ## MTIMES is linear in its operand, and MSQUARE is MTIMES twice -/

theorem selectedWord_xor (m : Matrix) (a b : U32) (i : Fin 32) :
    selectedWord m (a ^^^ b) i = selectedWord m a i ^^^ selectedWord m b i := by
  unfold selectedWord
  rw [BitVec.getLsbD_xor]
  cases a.getLsbD i <;> cases b.getLsbD i <;> simp

/-- R53: the matrix product is linear. -/
theorem mtimes_xor (m : Matrix) (a b : U32) : mtimes m (a ^^^ b) = mtimes m a ^^^ mtimes m b := by
  have hfold : ∀ (l : List (Fin 32)) (x y : U32),
      l.foldl (fun sum i => sum ^^^ selectedWord m (a ^^^ b) i) (x ^^^ y) =
        l.foldl (fun sum i => sum ^^^ selectedWord m a i) x ^^^ l.foldl (fun sum i => sum ^^^ selectedWord m b i) y := by
    intro l
    induction l with
    | nil => intro x y; rfl
    | cons i l ih =>
      intro x y
      rw [List.foldl_cons, List.foldl_cons, List.foldl_cons, ← ih, selectedWord_xor]
      congr 1
      ac_rfl
  simpa [mtimes] using hfold (List.finRange 32) 0 0

theorem mtimes_zero (m : Matrix) : mtimes m 0#32 = 0#32 := by
  simpa using mtimes_xor m 0 0

/-- A linear map applied to a product is the product with the matrix of the map's values on the words. -/
theorem linear_mtimes {f : U32 → U32} (h0 : f 0#32 = 0#32) (hx : ∀ a b, f (a ^^^ b) = f a ^^^ f b) (m : Matrix)
    (v : U32) :
    mtimes (tabulate 32 fun n => f m[n]) v = f (mtimes m v) := by
  have hword : ∀ i, selectedWord (tabulate 32 fun n => f m[n]) v i = f (selectedWord m v i) := by
    intro i
    unfold selectedWord
    split <;> simp [h0]
  calc (List.finRange 32).foldl (fun sum i => sum ^^^ selectedWord (tabulate 32 fun n => f m[n]) v i) 0#32
    _ = (List.finRange 32).foldl (fun sum i => sum ^^^ f (selectedWord m v i)) (f 0#32) := by simp only [hword, h0]
    _ = f (mtimes m v) := List.foldl_hom f fun x i => (hx x _).symm

/-- R54: the square of a matrix multiplies as the matrix does twice. -/
theorem mtimes_msquare (m : Matrix) (v : U32) : mtimes (msquare m) v = mtimes m (mtimes m v) :=
  linear_mtimes (mtimes_zero m) (mtimes_xor m) m v

/-! ## ZBASE and its squares are the LFSR step taken many times -/

/-- The matrix whose word `i` has only bit `i` set (R14). -/
def identityMatrix : Matrix := tabulate 32 fun n => (1 : U32) <<< n.val

theorem selectedWord_identity_getLsbD (v : U32) (i : Fin 32) (j : Nat) :
    (selectedWord identityMatrix v i).getLsbD j = (decide (j = i.val) && v.getLsbD j) := by
  have hi := i.isLt
  unfold selectedWord identityMatrix
  by_cases hj : j = i.val
  · subst hj
    cases v.getLsbD i.val <;> simp
  · have hne : j < 32 → ¬ j < i.val → ¬ j - i.val = 0 := by omega
    cases v.getLsbD i.val <;> simp [hj, BitVec.getLsbD_shiftLeft, BitVec.getLsbD_one]
    omega

theorem mtimes_identityMatrix (v : U32) : mtimes identityMatrix v = v := by
  have hfold : ∀ (l : List (Fin 32)) (x : U32) (j : Fin 32), l.Nodup →
      (l.foldl (fun sum i => sum ^^^ selectedWord identityMatrix v i) x).getLsbD j =
        (x.getLsbD j ^^ (decide (j ∈ l) && v.getLsbD j)) := by
    intro l
    induction l with
    | nil => simp
    | cons i l ih =>
      intro x j hl
      obtain ⟨hi, hl⟩ := List.nodup_cons.1 hl
      rw [List.foldl_cons, ih _ j hl, BitVec.getLsbD_xor, selectedWord_identity_getLsbD]
      by_cases hj : j = i
      · subst hj; simp [hi]
      · simp [hj, Fin.val_inj]
  refine BitVec.eq_of_getLsbD_eq fun j hj => ?_
  have := hfold (List.finRange 32) 0 ⟨j, hj⟩ (List.nodup_finRange 32)
  simpa [mtimes] using this

theorem zbase_eq_z1_words : (tabulate 32 fun n => z1 identityMatrix[n]) = zbase := by decide

/-- R55: the base operator is one LFSR step. -/
theorem mtimes_zbase (v : U32) : mtimes zbase v = z1 v := by
  rw [← zbase_eq_z1_words, linear_mtimes z1_zero z1_xor, mtimes_identityMatrix]

/-- R56: squaring doubles the number of steps an operator stands for. -/
theorem mtimes_squared {m : Matrix} {n : Nat} (h : ∀ v, mtimes m v = zn v n) (count : Nat) (v : U32) :
    mtimes (squared m count) v = zn v (n * 2 ^ count) := by
  induction count generalizing m n with
  | zero => simp [squared, h]
  | succ count ih =>
    have hsq : ∀ v, mtimes (msquare m) v = zn v (n * 2) := by
      intro v
      rw [mtimes_msquare, h, h, ← zn_add, Nat.mul_two]
    rw [squared, ih hsq, Nat.mul_assoc, Nat.pow_succ']

theorem mtimes_squared_zbase (count : Nat) (v : U32) : mtimes (squared zbase count) v = zn v (2 ^ count) := by
  rw [mtimes_squared (n := 1) mtimes_zbase, Nat.one_mul]

/-- R57, R59: ZTAB of the operator that ZOP leaves for a block is the block's table in closed form. -/
theorem ztabOf_zop (which : TableSel) :
    ztabOf (squared zbase (Nat.log2 (blockOf which) + 3)) = closedShiftTable which := by
  have hsteps : 2 ^ (Nat.log2 (blockOf which) + 3) = 8 * blockOf which := by cases which <;> decide
  simp only [ztabOf, closedShiftTable, mtimes_squared_zbase, hsteps]

/-! ## The byte table -/

/-- `n` steps with only zero bits to shift out are a plain shift. -/
theorem zn_of_low_zeros {v : U32} {n : Nat} (h : ∀ i < n, v.getLsbD i = false) : zn v n = v >>> n := by
  induction n with
  | zero => simp [zn]
  | succ n ih =>
    rw [zn, ih fun i hi => h i (by omega), z1, BitVec.getLsbD_ushiftRight, Nat.add_zero, h n (by omega),
      ← BitVec.shiftRight_add]
    simp

/-- A word is its low byte and the rest (R62's split of one folding). -/
theorem low_byte_xor_rest (c : U32) : (byteAt c 0).setWidth 32 ^^^ c >>> 8 <<< 8 = c := by
  refine BitVec.eq_of_getLsbD_eq fun j hj => ?_
  by_cases h : j < 8
  · simp [byteAt, h, hj]
  · have hsplit : 8 + (j - 8) = j := by omega
    simp [byteAt, h, hj, hsplit]

/-- R61, R62: one folding through row 0 is eight LFSR steps. -/
theorem foldByte_eq_zn (c : U32) : foldByte c = zn c 8 := by
  have hrest : zn (c >>> 8 <<< 8) 8 = c >>> 8 := by
    rw [zn_of_low_zeros fun i hi => by simp [hi]]
    refine BitVec.eq_of_getLsbD_eq fun j _ => ?_
    simp only [BitVec.getLsbD_ushiftRight, BitVec.getLsbD_shiftLeft]
    by_cases h : 8 + j < 32
    · simp [h]
    · simp [BitVec.getLsbD_of_ge c (8 + j) (by omega)]
  calc foldByte c = zn ((byteAt c 0).setWidth 32) 8 ^^^ c >>> 8 := by simp [foldByte, byteRow0]
    _ = zn ((byteAt c 0).setWidth 32 ^^^ c >>> 8 <<< 8) 8 := by rw [zn_xor, hrest]
    _ = zn c 8 := by rw [low_byte_xor_rest]

theorem foldTimes_eq_zn (c : U32) (k : Nat) : foldTimes c k = zn c (8 * k) := by
  induction k with
  | zero => rfl
  | succ k ih => rw [foldTimes, ih, foldByte_eq_zn, ← zn_add, Nat.mul_succ]

/-- R62: BTAB builds the closed form of R12. -/
theorem byteTable_eq_closed : byteTable = closedByteTable := by
  simp only [byteTable, closedByteTable, foldTimes_eq_zn]
  simp [byteRow0, ← zn_add, Nat.mul_succ, Nat.add_comm]

/-- R16, R87: the table construction leaves the tables at their fixed contents. -/
theorem initialised_tablesBuilt (me mo : Option Matrix) (w : Scratch) (s : State) :
    TablesBuilt (initialised me mo w s) := fun _ =>
  ⟨congrArg some byteTable_eq_closed, congrArg some (ztabOf_zop .short), congrArg some (ztabOf_zop .long)⟩

end Sys2Proof.Machine
end

section
/-! PROOFS. What the operations of the engine leave unchanged: the host's side, the ports, the tables and `BIND`
(10_state.md rules R6, R15 to R17, R20; 20_memory.md rule R36). -/

namespace Sys2Proof.Machine

/-! ## Frames -/

/-- The host's side is as it was: `HostSideSame` with the memory as the same list. -/
structure HostFrame (s t : State) : Prop where
  cw : t.cw = s.cw
  a : t.a = s.a
  n : t.n = s.n
  seed : t.seed = s.seed
  hwCap : t.hwCap = s.hwCap
  aw : t.aw = s.aw
  mem : t.mem = s.mem

/-- What a host command and its arrows never write: the host's side and the model's ports (entry 4). -/
structure CommandFrame (s t : State) : Prop extends HostFrame s t where
  cwPending : t.cwPending = s.cwPending
  micro : t.micro = s.micro

/-- `INIT_DONE` and the tables are as they were. -/
structure TablesSame (s t : State) : Prop where
  initDone : t.initDone = s.initDone
  bt : t.bt = s.bt
  zs : t.zs = s.zs
  zl : t.zl = s.zl

/-- What an arrow that ends no guard leaves unchanged. -/
structure BodyFrame (s t : State) : Prop extends CommandFrame s t, TablesSame s t where
  bind : t.bind = s.bind

theorem HostFrame.hostSideSame {s t : State} (h : HostFrame s t) : HostSideSame s t :=
  ⟨h.cw, h.a, h.n, h.seed, h.hwCap, h.aw, fun addr => by rw [h.mem]⟩

theorem HostFrame.trans {s t u : State} (h1 : HostFrame s t) (h2 : HostFrame t u) : HostFrame s u :=
  ⟨h2.cw.trans h1.cw, h2.a.trans h1.a, h2.n.trans h1.n, h2.seed.trans h1.seed, h2.hwCap.trans h1.hwCap,
    h2.aw.trans h1.aw, h2.mem.trans h1.mem⟩

theorem CommandFrame.refl (s : State) : CommandFrame s s := ⟨⟨rfl, rfl, rfl, rfl, rfl, rfl, rfl⟩, rfl, rfl⟩

theorem CommandFrame.trans {s t u : State} (h1 : CommandFrame s t) (h2 : CommandFrame t u) : CommandFrame s u :=
  ⟨h1.toHostFrame.trans h2.toHostFrame, h2.cwPending.trans h1.cwPending, h2.micro.trans h1.micro⟩

theorem TablesSame.refl (s : State) : TablesSame s s := ⟨rfl, rfl, rfl, rfl⟩

theorem TablesSame.trans {s t u : State} (h1 : TablesSame s t) (h2 : TablesSame t u) : TablesSame s u :=
  ⟨h2.initDone.trans h1.initDone, h2.bt.trans h1.bt, h2.zs.trans h1.zs, h2.zl.trans h1.zl⟩

theorem TablesSame.tablesBuilt {s t : State} (h : TablesSame s t) (hs : TablesBuilt s) : TablesBuilt t := by
  unfold TablesBuilt
  rw [h.initDone, h.bt, h.zs, h.zl]
  exact hs

theorem BodyFrame.bindFits {s t : State} (h : BodyFrame s t) (hs : BindFits s) : BindFits t := by
  unfold BindFits
  rw [h.bind, h.hwCap]
  exact hs

/-! ## The single operations of a command -/

/-- The registers a command writes outside its guards: the accumulators, `NEXT`, `LEN`, `PH` and the response. -/
theorem registers_frame (a0 a1 a2 : U32) (nx ln : Nat) (ph : Phase) (r : U32) (st : Status) (rv : Bool) (s : State) :
    BodyFrame s { s with
      acc0 := a0, acc1 := a1, acc2 := a2, next := nx, len := ln, ph := ph, res := r, st := st, resValid := rv } :=
  ⟨⟨⟨rfl, rfl, rfl, rfl, rfl, rfl, rfl⟩, rfl, rfl⟩, ⟨rfl, rfl, rfl, rfl⟩, rfl⟩

theorem LoopFrame.frame {s t : State} (h : LoopFrame s t) : BodyFrame s t := by
  unfold LoopFrame at h
  rw [h]
  exact registers_frame ..

theorem enterPhase_frame (ph : Phase) (s : State) : BodyFrame s (enterPhase ph s) := registers_frame ..

theorem respond_frame (st : Status) (r : U32) (s : State) : BodyFrame s (respond st r s) := registers_frame ..

theorem loadOperands_frame (s : State) : BodyFrame s (loadOperands s) := registers_frame ..

theorem initialised_frame (me mo : Option Matrix) (w : Scratch) (s : State) : CommandFrame s (initialised me mo w s) :=
  ⟨⟨rfl, rfl, rfl, rfl, rfl, rfl, rfl⟩, rfl, rfl⟩

theorem setBind_frame (b : Binding) (s : State) : CommandFrame s (setBind b s) ∧ TablesSame s (setBind b s) :=
  ⟨⟨⟨rfl, rfl, rfl, rfl, rfl, rfl, rfl⟩, rfl, rfl⟩, rfl, rfl, rfl, rfl⟩

/-! ## The guards and the head of a command -/

theorem afterDetectGuard_frame (c : HostCmd) (s : State) : BodyFrame s (afterDetectGuard c s) := by
  cases c with
  | init => exact respond_frame ..
  | crc32c | crcSw | crcHw => exact loadOperands_frame s

/-- Guard DETECT is entered by INIT and CRC32C in an engine that is not bound yet, and by nothing else (R88). -/
theorem afterInitGuard_cases (c : HostCmd) (s : State) :
    (afterInitGuard c s = enterPhase .detect s ∧ (c = .init ∨ c = .crc32c) ∧ s.bind = .uninitialized) ∨
    (afterInitGuard c s = afterDetectGuard c s ∧ (c = .init ∨ c = .crc32c → s.bind ≠ .uninitialized)) := by
  cases c <;> by_cases hb : s.bind = .uninitialized <;> simp [afterInitGuard, hb]

theorem afterInitGuard_frame (c : HostCmd) (s : State) : BodyFrame s (afterInitGuard c s) := by
  obtain ⟨h, -⟩ | ⟨h, -⟩ := afterInitGuard_cases c s
  · exact h ▸ enterPhase_frame ..
  · exact h ▸ afterDetectGuard_frame c s

/-- The three ways a command begins (R106, R109, R24). -/
theorem beginCommand_cases (c : HostCmd) (s : State) :
    (beginCommand c s = respond .unavailable 0 s ∧ c = .crcHw ∧ s.hwCap = false) ∨
    ((c = .crcHw → s.hwCap = true) ∧ s.initDone = true ∧ beginCommand c s = afterInitGuard c s) ∨
    ((c = .crcHw → s.hwCap = true) ∧ s.initDone = false ∧ beginCommand c s = enterPhase .init s) := by
  unfold beginCommand
  split
  · rename_i h
    exact .inl ⟨rfl, h⟩
  · rename_i h
    have hc : c = .crcHw → s.hwCap = true := fun hc => by simpa [hc] using h
    split
    · rename_i hd
      exact .inr (.inl ⟨hc, hd, rfl⟩)
    · rename_i hd
      exact .inr (.inr ⟨hc, by simpa using hd, rfl⟩)

theorem beginCommand_frame (c : HostCmd) (s : State) : BodyFrame s (beginCommand c s) := by
  obtain ⟨h, -⟩ | ⟨-, -, h⟩ | ⟨-, -, h⟩ := beginCommand_cases c s
  · exact h ▸ respond_frame ..
  · exact h ▸ afterInitGuard_frame c s
  · exact h ▸ enterPhase_frame ..

theorem detectArrow_frame (c : HostCmd) (s : State) :
    CommandFrame s (detectArrow c s) ∧ TablesSame s (detectArrow c s) := by
  have hguard := afterDetectGuard_frame c s
  unfold detectArrow
  split
  · exact setBind_frame ..
  · obtain ⟨hc, ht⟩ : CommandFrame s (finishDetect s) ∧ TablesSame s (finishDetect s) := setBind_frame ..
    have hg := afterDetectGuard_frame c (finishDetect s)
    exact ⟨hc.trans hg.toCommandFrame, ht.trans hg.toTablesSame⟩
  · exact ⟨hguard.toCommandFrame, hguard.toTablesSame⟩
  · exact ⟨hguard.toCommandFrame, hguard.toTablesSame⟩

/-! ## Arrows -/

theorem Moved.frame {k : Nat} {s t : State} (h : Moved k s t) : BodyFrame s t := h.1.frame

theorem BodyArrow.frame {e : Engine} {s t : State} (h : BodyArrow e s t) : BodyFrame s t := by
  cases h with
  | prologue _ _ _ m | long _ _ _ m | short _ _ _ m | word _ _ _ m | tail _ _ _ m => exact m.frame
  | prologueEnds _ _ d | longEnds _ _ d | shortEnds _ _ d | wordEnds _ _ d => exact d ▸ enterPhase_frame ..
  | responds _ _ d => exact d ▸ respond_frame ..

/-- The arrows of the body lead to the phases of the body and to `IDLE` (R24). -/
theorem BodyArrow.ph_ne {e : Engine} {s t : State} (h : BodyArrow e s t) : t.ph ≠ .init ∧ t.ph ≠ .detect := by
  cases h with
  | prologue ph _ _ m | long ph _ _ m | short ph _ _ m | word ph _ _ m | tail ph _ _ m => simp [m.ph, ph]
  | prologueEnds _ _ d | longEnds _ _ d | shortEnds _ _ d | wordEnds _ _ d => simp [d]
  | responds _ _ d => simp [d, respondChecksum]

theorem afterDetectGuard_ph (c : HostCmd) (s : State) :
    (afterDetectGuard c s).ph = if c = .init then .idle else .p := by
  cases c <;> rfl

theorem afterDetectGuard_ph_ne (c : HostCmd) (s : State) :
    (afterDetectGuard c s).ph ≠ .init ∧ (afterDetectGuard c s).ph ≠ .detect := by
  rw [afterDetectGuard_ph]
  split <;> simp

theorem afterInitGuard_ph_ne_init (c : HostCmd) (s : State) : (afterInitGuard c s).ph ≠ .init := by
  obtain ⟨h, -⟩ | ⟨h, -⟩ := afterInitGuard_cases c s
  · simp [h]
  · exact h ▸ (afterDetectGuard_ph_ne c s).1

/-- No arrow writes the host's side or a port (R17, R36). -/
theorem arrow_frame {c : HostCmd} {s t : State} (h : arrow c s = .ok t) : CommandFrame s t := by
  cases arrow_cases h with
  | idle _ d => exact d ▸ .refl s
  | init _ d =>
    obtain ⟨me, mo, w, rfl⟩ := d
    exact (initialised_frame me mo w s).trans (afterInitGuard_frame c _).toCommandFrame
  | detect _ d => exact d ▸ (detectArrow_frame c s).1
  | body e _ d => exact d.frame.toCommandFrame

/-- Outside phase `INIT` no arrow writes a table, and none goes to phase `INIT` (R16, R40, R24). -/
theorem arrow_tables {c : HostCmd} {s t : State} (hp : s.ph ≠ .init) (h : arrow c s = .ok t) :
    TablesSame s t ∧ t.ph ≠ .init := by
  cases arrow_cases h with
  | idle _ d =>
    subst d
    exact ⟨.refl _, hp⟩
  | init ph _ => exact absurd ph hp
  | detect ph d =>
    refine ⟨d ▸ (detectArrow_frame c s).2, ?_⟩
    rw [d]
    unfold detectArrow
    split
    · simp [startDetect, ph]
    all_goals exact (afterDetectGuard_ph_ne c _).1
  | body e _ d => exact ⟨d.frame.toTablesSame, d.ph_ne.1⟩

/-- A command that has no guard DETECT to pass does not come to phase `DETECT`, and writes no `BIND` (R15, R88). -/
theorem arrow_bind {c : HostCmd} {s t : State} (hc : c = .init ∨ c = .crc32c → s.bind ≠ .uninitialized)
    (hp : s.ph ≠ .detect) (h : arrow c s = .ok t) : t.bind = s.bind ∧ t.ph ≠ .detect := by
  cases arrow_cases h with
  | idle _ d =>
    subst d
    exact ⟨rfl, hp⟩
  | init _ d =>
    obtain ⟨me, mo, w, rfl⟩ := d
    refine ⟨(afterInitGuard_frame c _).bind, ?_⟩
    obtain ⟨-, hcmd, hb⟩ | ⟨h, -⟩ := afterInitGuard_cases c (initialised me mo w s)
    · exact absurd hb (hc hcmd)
    · exact h ▸ (afterDetectGuard_ph_ne c _).2
  | detect ph _ => exact absurd ph hp
  | body e _ d => exact ⟨d.frame.bind, d.ph_ne.2⟩

/-! ## Commands -/

theorem runCommand_frame {c : HostCmd} {s t : State} (h : runCommand c s = .ok t) : CommandFrame s t :=
  runArrows_induct (P := CommandFrame s) (fun _ _ _ hu h => hu.trans (arrow_frame h)) _ _ _
    (beginCommand_frame c s).toCommandFrame h

theorem beginCommand_ph_ne_init {s : State} (c : HostCmd) (hd : s.initDone = true) :
    (beginCommand c s).ph ≠ .init := by
  obtain ⟨h, -⟩ | ⟨-, -, h⟩ | ⟨-, h, -⟩ := beginCommand_cases c s
  · simp [h]
  · exact h ▸ afterInitGuard_ph_ne_init c s
  · simp [hd] at h

theorem beginCommand_ph_ne_detect {c : HostCmd} {s : State} (hc : c = .init ∨ c = .crc32c → s.bind ≠ .uninitialized) :
    (beginCommand c s).ph ≠ .detect := by
  obtain ⟨h, -⟩ | ⟨-, -, h⟩ | ⟨-, -, h⟩ := beginCommand_cases c s
  · simp [h]
  · rw [h]
    obtain ⟨-, hcmd, hb⟩ | ⟨h, -⟩ := afterInitGuard_cases c s
    · exact absurd hb (hc hcmd)
    · exact h ▸ (afterDetectGuard_ph_ne c s).2
  · simp [h]

/-- With `INIT_DONE` set a command leaves the tables alone (R16, R40). -/
theorem runCommand_tables {c : HostCmd} {s t : State} (hd : s.initDone = true) (h : runCommand c s = .ok t) :
    TablesSame s t :=
  (runArrows_induct (P := fun u => TablesSame s u ∧ u.ph ≠ .init)
    (fun _ _ _ hu h => ⟨hu.1.trans (arrow_tables hu.2 h).1, (arrow_tables hu.2 h).2⟩) _ _ _
    ⟨(beginCommand_frame c s).toTablesSame, beginCommand_ph_ne_init c hd⟩ h).1

/-- A command without a guard DETECT to pass leaves `BIND` alone (R15, R88). -/
theorem runCommand_bind {c : HostCmd} {s t : State} (hc : c = .init ∨ c = .crc32c → s.bind ≠ .uninitialized)
    (h : runCommand c s = .ok t) : t.bind = s.bind := by
  refine (runArrows_induct (P := fun u => u.bind = s.bind ∧ u.ph ≠ .detect) ?_ _ _ _
    ⟨(beginCommand_frame c s).bind, beginCommand_ph_ne_detect hc⟩ h).1
  rintro u v - ⟨hb, hp⟩ huv
  obtain ⟨hv, hq⟩ := arrow_bind (hb ▸ hc) hp huv
  exact ⟨hv.trans hb, hq⟩

/-- A host command's meaning is the command run to its response (R46). -/
theorem exec_instrOf (c : HostCmd) (s : State) : exec (instrOf c) s = toOutcome (runCommand c s) := by
  cases c <;> rfl

theorem exec_instrOf_eq_next {c : HostCmd} {s t : State} : exec (instrOf c) s = .next t ↔ runCommand c s = .ok t := by
  rw [exec_instrOf, toOutcome_eq_next]

/-- Settles O60: the run keeps the host's side and the ports, and its guards say what it keeps of `BIND` and the
tables. -/
theorem hostCommandsKeepTheirFrame : Obligations.HostCommandsKeepTheirFrame := by
  unfold Obligations.HostCommandsKeepTheirFrame
  intro c s t h
  have hrun := exec_instrOf_eq_next.1 h
  have hf := runCommand_frame hrun
  refine ⟨hf.cw, hf.a, hf.n, hf.seed, hf.hwCap, hf.aw, hf.cwPending, hf.micro, ?_, ?_, ?_⟩
  · intro hc
    refine runCommand_bind ?_ hrun
    rcases hc with rfl | rfl | hb
    · simp
    · simp
    · exact fun _ => hb
  · intro hd
    have ht := runCommand_tables hd hrun
    exact ⟨ht.initDone.trans hd, ht.bt, ht.zs, ht.zl⟩
  · exact memRead1_congr hf.aw hf.mem

/-! ## Micro-operations and the step -/

theorem withScratch_frame (me mo : Option Matrix) (w : Scratch) (s : State) : HostFrame s (withScratch me mo w s) :=
  ⟨rfl, rfl, rfl, rfl, rfl, rfl, rfl⟩

theorem setOut_frame (v : U32) (s : State) : HostFrame s (setOut v s) := ⟨rfl, rfl, rfl, rfl, rfl, rfl, rfl⟩

theorem setByteTable_frame (t : ByteTable) (s : State) : HostFrame s (setByteTable t s) :=
  ⟨rfl, rfl, rfl, rfl, rfl, rfl, rfl⟩

theorem setShiftTable_frame (which : TableSel) (t : ShiftTable) (s : State) : HostFrame s (setShiftTable which t s) := by
  constructor <;> simp

theorem takeMicro_frame (s : State) : HostFrame s (takeMicro s) := ⟨rfl, rfl, rfl, rfl, rfl, rfl, rfl⟩

theorem takeCommand_frame (s : State) : HostFrame s (takeCommand s) := ⟨rfl, rfl, rfl, rfl, rfl, rfl, rfl⟩

/-- A micro-operation with a result writes nothing but the result. -/
theorem setOut_of_next {α : Type} {x : Except Fault α} {f : α → U32} {s t : State}
    (h : toOutcome (do let v ← x; .ok (setOut (f v) s)) = .next t) : ∃ v, x = .ok v ∧ t = setOut (f v) s := by
  obtain ⟨v, hv, h⟩ := bind_eq_ok.1 (toOutcome_eq_next.1 h)
  cases h
  exact ⟨v, hv, rfl⟩

theorem squareScratch_eq_ok {s t : State} (h : squareScratch s = .ok t) :
    t = withScratch t.meven t.modd t.scratch s := by
  obtain ⟨m, hm, -⟩ := bind_eq_ok.1 h
  obtain ⟨u, hu, -, hf⟩ := squareScratch_of_currentMatrix hm
  cases hu.symm.trans h
  exact hf

theorem zop_eq_ok {len : Nat} {s t : State} (h : zop len s = .ok t) : t = withScratch t.meven t.modd t.scratch s := by
  obtain ⟨u, hu, -, hf⟩ := zop_spec len s
  cases hu.symm.trans h
  exact hf

theorem ztab_eq_ok {which : TableSel} {s t : State} (h : ztab which s = .ok t) :
    ∃ m, currentMatrix s = .ok m ∧ t = setShiftTable which (ztabOf m) s := by
  obtain ⟨m, hm, h⟩ := bind_eq_ok.1 h
  cases h
  exact ⟨m, hm, rfl⟩

/-- DETECT binds by `HW_CAP`, and only an engine that is not bound yet (R86). -/
theorem detect_eq_ok {s t : State} (h : detect s = .ok t) :
    s.bind = .uninitialized ∧ t = setBind (if s.hwCap then .boundHardware else .boundSoftware) s := by
  unfold detect at h
  split at h
  · rename_i hb
    cases h
    exact ⟨hb, rfl⟩
  all_goals cases h

theorem setOut_of_next_frame {α : Type} {x : Except Fault α} {f : α → U32} {s t : State}
    (h : toOutcome (do let v ← x; .ok (setOut (f v) s)) = .next t) : HostFrame s t := by
  obtain ⟨v, -, rfl⟩ := setOut_of_next h
  exact setOut_frame ..

theorem singleLane_frame {e : Engine} {s t : State} (h : toOutcome (singleLane e s) = .next t) : HostFrame s t := by
  rw [singleLane_eq_ok (toOutcome_eq_next.1 h)]
  exact (registers_frame ..).toHostFrame

theorem group_frame {e : Engine} {which : TableSel} {s t : State} (h : toOutcome (group e which s) = .next t) :
    HostFrame s t :=
  (group_moved (toOutcome_eq_next.1 h)).frame.toHostFrame

/-- No operation writes the host's side (R17, R20, R36). -/
theorem exec_frame {i : Instr} {s t : State} (h : exec i s = .next t) : HostFrame s t := by
  cases i with
  | init => exact (runCommand_frame (c := .init) (toOutcome_eq_next.1 h)).toHostFrame
  | crc32c => exact (runCommand_frame (c := .crc32c) (toOutcome_eq_next.1 h)).toHostFrame
  | crcSw => exact (runCommand_frame (c := .crcSw) (toOutcome_eq_next.1 h)).toHostFrame
  | crcHw => exact (runCommand_frame (c := .crcHw) (toOutcome_eq_next.1 h)).toHostFrame
  | mtimes | shift _ | swb | sww | hwb | hww => exact setOut_of_next_frame h
  | msquare =>
    rw [squareScratch_eq_ok (toOutcome_eq_next.1 h)]
    exact withScratch_frame ..
  | zop =>
    simp only [exec, execZop] at h
    split at h
    · cases h
    · rw [zop_eq_ok (toOutcome_eq_next.1 h)]
      exact withScratch_frame ..
  | ztab which =>
    obtain ⟨m, -, rfl⟩ := ztab_eq_ok (toOutcome_eq_next.1 h)
    exact setShiftTable_frame ..
  | combine which =>
    obtain ⟨tab, -, -, rfl⟩ := combine_eq_ok (toOutcome_eq_next.1 h)
    exact (registers_frame ..).toHostFrame
  | btab =>
    cases h
    exact setByteTable_frame ..
  | sw1 | hw1 => exact singleLane_frame h
  | sw3s | sw3l | hw3s | hw3l => exact group_frame h
  | detect =>
    obtain ⟨-, rfl⟩ := detect_eq_ok (toOutcome_eq_next.1 h)
    exact (setBind_frame ..).1.toHostFrame

/-- What a step that answers did (R45, R48, R115, R24). -/
inductive StepCases (s t : State) : Prop
  | micro (w : U32) (i : Instr) (slot : s.micro.slot = some w) (word : microWord w = some i)
      (does : exec i (takeMicro s) = .next t)
  | command (c : HostCmd) (slot : s.micro.slot = none) (ph : s.ph = .idle) (pending : s.cwPending = true)
      (word : hostWord s.cw = some c) (does : exec (instrOf c) (takeCommand s) = .next t)
  | illegal (slot : s.micro.slot = none) (ph : s.ph = .idle) (pending : s.cwPending = true)
      (word : hostWord s.cw = none) (does : t = respondIllegal (takeCommand s))
  | waiting (slot : s.micro.slot = none) (ph : s.ph = .idle) (pending : s.cwPending = false) (does : t = s)
  | running (c : HostCmd) (slot : s.micro.slot = none) (ph : s.ph ≠ .idle) (word : hostWord s.cw = some c)
      (does : arrow c s = .ok t)

theorem step_cases {s t : State} (h : step s = .next t) : StepCases s t := by
  unfold step fetch at h
  cases hs : s.micro.slot with
  | some w =>
    cases hw : microWord w with
    | some i => exact .micro w i hs hw (by simpa [hs, hw] using h)
    | none => simp [hs, hw] at h
  | none =>
    by_cases hp : s.ph = .idle
    · by_cases hq : s.cwPending = true
      · cases hc : hostWord s.cw with
        | some c => exact .command c hs hp hq hc (by simpa [hs, hp, hq, hc] using h)
        | none =>
          have ht : respondIllegal (takeCommand s) = t := by simpa [hs, hp, hq, hc] using h
          exact .illegal hs hp hq hc ht.symm
      · have ht : s = t := by simpa [hs, hp, hq] using h
        exact .waiting hs hp (by simpa using hq) ht.symm
    · cases hc : hostWord s.cw with
      | some c => exact .running c hs hp hc (toOutcome_eq_next.1 (by simpa [hs, hp, hc] using h))
      | none => simp [hs, hp, hc] at h

theorem step_frame {s t : State} (h : step s = .next t) : HostFrame s t := by
  cases step_cases h with
  | micro _ _ _ _ does => exact (takeMicro_frame s).trans (exec_frame does)
  | command _ _ _ _ _ does => exact (takeCommand_frame s).trans (exec_frame does)
  | illegal _ _ _ _ does => exact does ▸ (takeCommand_frame s).trans (respond_frame ..).toHostFrame
  | waiting _ _ _ does => exact does ▸ (CommandFrame.refl s).toHostFrame
  | running _ _ _ _ does => exact (arrow_frame does).toHostFrame

/-- Settles O17: every operation a step can take up keeps the host's side. -/
theorem noStepWritesTheHostSide : Obligations.NoStepWritesTheHostSide := by
  unfold Obligations.NoStepWritesTheHostSide
  exact fun _ _ h => (step_frame h).hostSideSame

end Sys2Proof.Machine
end

section
/-! PROOFS. The invariant of the engine holds at reset and is kept by every step. -/

namespace Sys2Proof.Machine

/-! ## A command in progress -/

/-- What the invariant says of a state at which the command `c` was taken up, phase aside. -/
structure Active (c : HostCmd) (s : State) : Prop where
  width : 16 ≤ s.aw
  aFits : s.a < 2 ^ s.aw
  nFits : s.n < 2 ^ s.aw
  memWf : Memory.wf s.aw s.mem = true
  slotEmpty : s.micro.slot = none
  tables : TablesBuilt s
  bind : BindFits s
  word : hostWord s.cw = some c
  taken : s.cwPending = false

/-- The invariant of a state in which the command `c` was taken up: the induction over its arrows runs on this. -/
structure Progress (c : HostCmd) (s : State) : Prop extends Active c s where
  detecting : s.bind = .detecting → s.ph = .detect
  phase : PhaseFits c s

theorem Progress.inv {c : HostCmd} {s : State} (h : Progress c s) : Inv s where
  width := h.width
  aFits := h.aFits
  nFits := h.nFits
  memWf := h.memWf
  slotEmpty := h.slotEmpty
  tables := h.tables
  bind := h.bind
  detecting := h.detecting
  pending := fun hp => by simp [h.taken] at hp
  inProgress := fun _ => ⟨c, h.word, h.phase⟩

/-- In `IDLE` the phase asks nothing. -/
theorem phaseFits_of_idle {c : HostCmd} {s : State} (h : s.ph = .idle) : PhaseFits c s := by
  simp [PhaseFits, h]

/-- The command a phase is in is the one whose word `CW` holds. -/
theorem Inv.phaseFits {c : HostCmd} {s : State} (hi : Inv s) (hw : hostWord s.cw = some c) : PhaseFits c s := by
  by_cases hp : s.ph = .idle
  · exact phaseFits_of_idle hp
  · obtain ⟨d, hd, hf⟩ := hi.inProgress hp
    cases hw.symm.trans hd
    exact hf

theorem Inv.progress {c : HostCmd} {s : State} (hi : Inv s) (hw : hostWord s.cw = some c)
    (ht : s.cwPending = false) : Progress c s :=
  ⟨⟨hi.width, hi.aFits, hi.nFits, hi.memWf, hi.slotEmpty, hi.tables, hi.bind, hw, ht⟩, hi.detecting, hi.phaseFits hw⟩

theorem Active.of_frame {c : HostCmd} {s t : State} (h : Active c s) (hf : CommandFrame s t) (ht : TablesBuilt t)
    (hb : BindFits t) : Active c t where
  width := hf.aw ▸ h.width
  aFits := hf.a ▸ hf.aw ▸ h.aFits
  nFits := hf.n ▸ hf.aw ▸ h.nFits
  memWf := hf.mem ▸ hf.aw ▸ h.memWf
  slotEmpty := hf.micro ▸ h.slotEmpty
  tables := ht
  bind := hb
  word := hf.cw ▸ h.word
  taken := hf.cwPending ▸ h.taken

theorem Active.of_bodyFrame {c : HostCmd} {s t : State} (h : Active c s) (hf : BodyFrame s t) : Active c t :=
  h.of_frame hf.toCommandFrame (hf.tablesBuilt h.tables) (hf.bindFits h.bind)

/-- A state with the response written, or one that goes back to waiting. -/
theorem Active.progress_of_idle {c : HostCmd} {s : State} (h : Active c s) (hp : s.ph = .idle)
    (hb : s.bind ≠ .detecting) : Progress c s :=
  ⟨h, fun hd => absurd hd hb, phaseFits_of_idle hp⟩

/-! ## The guards -/

/-- With the guards behind it INIT has responded and a checksum command starts its body (R88). -/
theorem Active.afterDetectGuard_progress {c : HostCmd} {s : State} (h : Active c s) (hd : s.initDone = true)
    (hu : c = .crcHw → s.hwCap = true) (hb : s.bind ≠ .detecting)
    (hbound : c = .crc32c → s.bind ≠ .uninitialized) : Progress c (afterDetectGuard c s) := by
  have ht := h.of_bodyFrame (afterDetectGuard_frame c s)
  have hb' : (afterDetectGuard c s).bind ≠ .detecting := by rwa [(afterDetectGuard_frame c s).bind]
  by_cases hc : c = .init
  · exact ht.progress_of_idle (by simp [afterDetectGuard_ph, hc]) hb'
  · have hload : afterDetectGuard c s = loadOperands s := by cases c <;> simp_all [afterDetectGuard]
    have hbody : BodyFits c (loadOperands s) :=
      { initDone := hd
        notInit := hc
        bound := fun h32 => by
          have := hbound h32
          rw [loadOperands_bind]
          cases hs : s.bind <;> simp_all
        unit := hu
        nextFits := h.aFits
        lenFits := h.nFits
        rest := fun _ => rfl }
    rw [hload] at ht hb' ⊢
    exact ⟨ht, fun hdet => absurd hdet hb', hbody⟩

theorem Active.afterInitGuard_progress {c : HostCmd} {s : State} (h : Active c s) (hd : s.initDone = true)
    (hu : c = .crcHw → s.hwCap = true) (hb : s.bind ≠ .detecting) : Progress c (afterInitGuard c s) := by
  obtain ⟨hg, hc, hun⟩ | ⟨hg, hc⟩ := afterInitGuard_cases c s
  · rw [hg]
    exact ⟨h.of_bodyFrame (enterPhase_frame ..), fun _ => rfl, hd, hc, .inl hun⟩
  · rw [hg]
    exact h.afterDetectGuard_progress hd hu hb fun h32 => hc (.inr h32)

/-- The head of a command (R106) leads from `IDLE` into a phase that R24 gives the command. -/
theorem Active.beginCommand_progress {c : HostCmd} {s : State} (h : Active c s) (hb : s.bind ≠ .detecting) :
    Progress c (beginCommand c s) := by
  obtain ⟨hg, -⟩ | ⟨hu, hd, hg⟩ | ⟨hu, hd, hg⟩ := beginCommand_cases c s
  · rw [hg]
    exact (h.of_bodyFrame (respond_frame ..)).progress_of_idle rfl hb
  · rw [hg]
    exact h.afterInitGuard_progress hd hu hb
  · rw [hg]
    exact ⟨h.of_bodyFrame (enterPhase_frame ..), fun hdet => absurd hdet hb, hd, hu⟩

theorem finishDetect_bindFits (s : State) : BindFits (finishDetect s) := by
  cases hc : s.hwCap <;> simp [BindFits, finishDetect, hc]

/-- Phase `DETECT` goes by way of `Detecting` to the bound state that `HW_CAP` asks for (R85, R86). -/
theorem Progress.detectArrow_keeps {c : HostCmd} {s : State} (h : Progress c s) (hp : s.ph = .detect) :
    Progress c (detectArrow c s) := by
  obtain ⟨hd, hc, hb⟩ : s.initDone = true ∧ (c = .init ∨ c = .crc32c) ∧
      (s.bind = .uninitialized ∨ s.bind = .detecting) := by
    simpa [PhaseFits, hp] using h.phase
  have hstay (b : Binding) (hfits : BindFits (setBind b s)) : Active c (setBind b s) :=
    h.toActive.of_frame (setBind_frame b s).1 ((setBind_frame b s).2.tablesBuilt h.tables) hfits
  rcases hb with hb | hb
  · have harrow : detectArrow c s = setBind .detecting s := by simp [detectArrow, hb, startDetect]
    rw [harrow]
    refine ⟨hstay _ ⟨nofun, nofun⟩, fun _ => hp, ?_⟩
    simp [PhaseFits, hp, hd, hc]
  · have harrow : detectArrow c s = afterDetectGuard c (finishDetect s) := by
      simp [detectArrow, hb]
    rw [harrow]
    refine (hstay _ (finishDetect_bindFits s)).afterDetectGuard_progress hd ?_ ?_ fun _ => ?_
    · rcases hc with rfl | rfl <;> nofun
    · cases s.hwCap <;> simp
    · cases s.hwCap <;> simp

/-! ## The body of a checksum command -/

theorem PhaseFits.bodyFits {c : HostCmd} {s : State} (h : PhaseFits c s)
    (hp : s.ph = .p ∨ s.ph = .l ∨ s.ph = .s ∨ s.ph = .w ∨ s.ph = .t) : BodyFits c s := by
  unfold PhaseFits at h
  rcases hp with hp | hp | hp | hp | hp <;> rw [hp] at h
  · exact h
  · exact h.1
  · exact h.1
  · exact h.1
  · exact h.1

theorem BodyFits.enterPhase_keeps {c : HostCmd} {s : State} (h : BodyFits c s) (ph : Phase) :
    BodyFits c (enterPhase ph s) :=
  ⟨h.initDone, h.notInit, h.bound, h.unit, h.nextFits, h.lenFits, h.rest⟩

/-- Consuming bytes keeps the end of the buffer where the operands have it (R11). -/
theorem BodyFits.moved {c : HostCmd} {k : Nat} {s t : State} (h : BodyFits c s) (hm : Moved k s t) : BodyFits c t := by
  have ⟨_, hnext, hlen, hk, _⟩ := hm
  have hf := hm.frame
  refine ⟨hf.initDone.trans h.initDone, h.notInit, ?_, ?_, ?_, ?_, ?_⟩
  · rw [hf.bind]; exact h.bound
  · rw [hf.hwCap]; exact h.unit
  · rw [hnext, hf.aw]; exact nextAfter_lt ..
  · have := h.lenFits
    rw [hlen, hf.aw]
    omega
  · intro hl
    have hend := h.rest (by omega)
    rw [hm.next hl, hlen, hf.a, hf.n]
    omega

/-- Consuming whole words keeps `NEXT` aligned while bytes are left. -/
theorem Moved.aligned {k : Nat} {s t : State} (hm : Moved k s t) (hk : k % 8 = 0)
    (ha : s.len ≠ 0 → s.next % 8 = 0) (hl : t.len ≠ 0) : t.next % 8 = 0 := by
  have hlen := hm.len
  have := ha (by omega)
  rw [hm.next hl]
  omega

/-- The body's arrows lead where R24 says. -/
theorem BodyArrow.phaseFits {c : HostCmd} {e : Engine} {s t : State} (h : BodyArrow e s t) (hs : PhaseFits c s) :
    PhaseFits c t := by
  have hbody := hs.bodyFits
  unfold PhaseFits at hs
  cases h with
  | prologue ph _ _ m =>
    simpa only [PhaseFits, m.ph, ph] using (hbody (by simp [ph])).moved m
  | prologueEnds ph guard d =>
    subst d
    refine ⟨(hbody (by simp [ph])).enterPhase_keeps _, fun hl => ?_⟩
    simpa [prologueGoesOn, bytesLeft, nextUnaligned, show s.len ≠ 0 from hl] using guard
  | long ph _ _ m =>
    simp only [ph] at hs
    simp only [PhaseFits, m.ph, ph]
    exact ⟨hs.1.moved m, m.aligned rfl hs.2⟩
  | longEnds ph guard d =>
    subst d
    simp only [ph] at hs
    exact ⟨hs.1.enterPhase_keeps _, hs.2, Nat.lt_of_not_le (of_decide_eq_false guard)⟩
  | short ph _ _ m =>
    simp only [ph] at hs
    simp only [PhaseFits, m.ph, ph]
    exact ⟨hs.1.moved m, m.aligned rfl hs.2.1, by rw [m.len]; omega⟩
  | shortEnds ph guard d =>
    subst d
    simp only [ph] at hs
    exact ⟨hs.1.enterPhase_keeps _, hs.2.1, Nat.lt_of_not_le (of_decide_eq_false guard)⟩
  | word ph _ _ m =>
    simp only [ph] at hs
    simp only [PhaseFits, m.ph, ph]
    exact ⟨hs.1.moved m, m.aligned rfl hs.2.1, by rw [m.len]; omega⟩
  | wordEnds ph guard d =>
    subst d
    simp only [ph] at hs
    exact ⟨hs.1.enterPhase_keeps _, Nat.lt_of_not_le (of_decide_eq_false guard)⟩
  | tail ph _ _ m =>
    simp only [ph] at hs
    simp only [PhaseFits, m.ph, ph]
    exact ⟨hs.1.moved m, by rw [m.len]; omega⟩
  | responds _ _ d =>
    subst d
    exact phaseFits_of_idle rfl

/-- The body's arrows start in the phases of the body. -/
theorem BodyArrow.source_ph_ne_detect {e : Engine} {s t : State} (h : BodyArrow e s t) : s.ph ≠ .detect := by
  cases h with
  | prologue ph | prologueEnds ph | long ph | longEnds ph | short ph | shortEnds ph | word ph | wordEnds ph | tail ph
  | responds ph => simp [ph]

/-! ## Arrows, commands and steps -/

theorem Progress.arrow_keeps {c : HostCmd} {s t : State} (h : Progress c s) (ha : arrow c s = .ok t) : Progress c t := by
  cases arrow_cases ha with
  | idle _ d => exact d ▸ h
  | init ph d =>
    obtain ⟨me, mo, w, rfl⟩ := d
    obtain ⟨-, hu⟩ : s.initDone = false ∧ (c = .crcHw → s.hwCap = true) := by simpa [PhaseFits, ph] using h.phase
    have hb : s.bind ≠ .detecting := fun hd => by simp [h.detecting hd] at ph
    have hbuilt : Active c (initialised me mo w s) :=
      h.toActive.of_frame (initialised_frame me mo w s) (initialised_tablesBuilt me mo w s) h.bind
    exact hbuilt.afterInitGuard_progress rfl hu hb
  | detect ph d => exact d ▸ h.detectArrow_keeps ph
  | body e _ d =>
    refine ⟨h.toActive.of_bodyFrame d.frame, fun hd => ?_, d.phaseFits h.phase⟩
    exact absurd (h.detecting (d.frame.bind ▸ hd)) d.source_ph_ne_detect

theorem Active.runCommand_progress {c : HostCmd} {s t : State} (h : Active c s) (hb : s.bind ≠ .detecting)
    (hr : runCommand c s = .ok t) : Progress c t :=
  runArrows_induct (P := Progress c) (fun _ _ _ hu ha => hu.arrow_keeps ha) _ _ _ (h.beginCommand_progress hb) hr

/-- In `IDLE` no binding is under way. -/
theorem Inv.not_detecting {s : State} (h : Inv s) (hp : s.ph = .idle) : s.bind ≠ .detecting :=
  fun hd => by simp [h.detecting hd] at hp

theorem Inv.takeCommand_keeps {s : State} (h : Inv s) (hp : s.ph = .idle) : Inv (takeCommand s) :=
  ⟨h.width, h.aFits, h.nFits, h.memWf, h.slotEmpty, h.tables, h.bind, h.detecting, nofun, fun hi => absurd hp hi⟩

theorem Inv.respond_keeps {s : State} (h : Inv s) (hp : s.ph = .idle) (st : Status) (r : U32) : Inv (respond st r s) :=
  ⟨h.width, h.aFits, h.nFits, h.memWf, h.slotEmpty, h.tables, h.bind, fun hd => absurd hd (h.not_detecting hp),
    fun _ => rfl, fun hi => absurd rfl hi⟩

theorem Inv.step_keeps {s t : State} (h : Inv s) (hs : step s = .next t) : Inv t := by
  cases step_cases hs with
  | micro _ _ slot => simp [h.slotEmpty] at slot
  | command c _ ph _ word does =>
    have hc : Progress c (takeCommand s) := (h.takeCommand_keeps ph).progress word rfl
    exact (hc.toActive.runCommand_progress (h.not_detecting ph) (exec_instrOf_eq_next.1 does)).inv
  | illegal _ ph _ _ does => exact does ▸ (h.takeCommand_keeps ph).respond_keeps ph ..
  | waiting _ _ _ does => exact does ▸ h
  | running c _ ph word does =>
    have htaken : s.cwPending = false := by
      cases hq : s.cwPending with
      | false => rfl
      | true => exact absurd (h.pending hq) ph
    exact ((h.progress word htaken).arrow_keeps does).inv

/-- Settles O13: a host command or an arrow runs on `Progress`, which the invariant is with the command named. -/
theorem everyStepKeepsTheInvariant : Obligations.EveryStepKeepsTheInvariant := by
  unfold Obligations.EveryStepKeepsTheInvariant
  exact fun _ _ hi hs => hi.step_keeps hs

/-! ## Reset -/

theorem Memory.wf_nil (aw : Nat) : Memory.wf aw [] = true := rfl

/-- The reset state meets the invariant over every memory of the host's in canonical form. -/
theorem resetWith_inv {hwCap : Bool} {aw : Nat} {mem : List Host.Cell} (hw : 16 ≤ aw)
    (hm : Memory.wf aw mem = true) : Inv (State.resetWith hwCap aw mem) where
  width := hw
  aFits := Nat.two_pow_pos aw
  nFits := Nat.two_pow_pos aw
  memWf := hm
  slotEmpty := rfl
  tables := nofun
  bind := ⟨nofun, nofun⟩
  detecting := nofun
  pending := nofun
  inProgress := fun h => absurd rfl h

/-- Settles O12: `State.reset` is one of the admitted reset states. -/
theorem invariantHoldsAtReset : Obligations.InvariantHoldsAtReset := by
  unfold Obligations.InvariantHoldsAtReset
  exact ⟨resetWith_inv (by decide) (Memory.wf_nil _), fun _ _ hw => resetWith_inv hw (Memory.wf_nil _)⟩

end Sys2Proof.Machine
end

section
/-! PROOFS. Single steps and the host's side of the port: what a step takes up and that single arrows come to a
command's response (entry 10), the register map (10_state.md rule R19), reset (rule R25), and the operations that stop because a
table, a matrix or the checksum unit is not there (rules R16, R20, R27). -/

namespace Sys2Proof.Machine

/-! ## What a step takes up -/

@[simp] theorem hostCmdOf_instrOf (c : HostCmd) : hostCmdOf (instrOf c) = some c := by cases c <;> rfl

theorem hostWord_of_decode {w : U32} {c : HostCmd} (h : decode w = .ok (instrOf c)) : hostWord w = some c := by
  simp [hostWord, h]

/-- The word of a host command issues it (R48, R49). -/
theorem hostWord_encode (c : HostCmd) : hostWord (encode (instrOf c)) = some c := by
  refine hostWord_of_decode ?_
  cases c with
  | init => exact Laws.Encodes.init.2
  | crc32c => exact Laws.Encodes.crc32c.2
  | crcSw => exact Laws.Encodes.crcSw.2
  | crcHw => exact Laws.Encodes.crcHw.2

theorem step_of_slot {s : State} {w : U32} {i : Instr} (hs : s.micro.slot = some w) (hd : decode w = .ok i)
    (hi : hostCmdOf i = none) : step s = exec i (takeMicro s) := by
  simp [step, fetch, hs, microWord, hd, hi]

theorem step_of_pending {s : State} {c : HostCmd} (hs : s.micro.slot = none) (hp : s.ph = .idle)
    (hq : s.cwPending = true) (hw : hostWord s.cw = some c) : step s = exec (instrOf c) (takeCommand s) := by
  simp [step, fetch, hs, hp, hq, hw]

theorem step_of_running {s : State} {c : HostCmd} (hs : s.micro.slot = none) (hp : s.ph ≠ .idle)
    (hw : hostWord s.cw = some c) : step s = toOutcome (arrow c s) := by
  simp [step, fetch, hs, hp, hw]

theorem step_of_waiting {s : State} (hs : s.micro.slot = none) (hp : s.ph = .idle) (hq : s.cwPending = false) :
    step s = .next s := by
  simp [step, fetch, hs, hp, hq]

/-- Settles O6: one equation of `step` for each thing it can take up. -/
theorem stepRunsTheDecodedOperation : Obligations.StepRunsTheDecodedOperation := by
  unfold Obligations.StepRunsTheDecodedOperation
  exact ⟨fun _ _ _ hs hd hi => step_of_slot hs hd hi,
    fun _ _ hs hp hq hd => step_of_pending hs hp hq (hostWord_of_decode hd),
    fun _ _ hs hp hd => step_of_running hs hp (hostWord_of_decode hd),
    fun _ hs hp hq => step_of_waiting hs hp hq⟩

/-! ## Single steps along a command -/

theorem core_run_succ {k : Nat} {s u : State} (h : step s = .next u) :
    Host.Core.run core (k + 1) s = Host.Core.run core k u := by
  have hc : core.step s = .next u := h
  simp only [Host.Core.run, hc]

/-- A run of arrows is a run of steps, while `CW` holds the command's word and no micro-operation is in the slot: no
arrow writes either. -/
theorem core_run_of_runArrows {c : HostCmd} (count : Nat) {s t : State} (hs : s.micro.slot = none)
    (hw : hostWord s.cw = some c) (h : runArrows c count s = .ok t) :
    ∃ k, Host.Core.run core k s = .next t := by
  induction count generalizing s with
  | zero => cases h; exact ⟨0, rfl⟩
  | succ count ih =>
    simp only [runArrows] at h
    split at h
    · cases h; exact ⟨0, rfl⟩
    · rename_i hp
      obtain ⟨u, hu, ht⟩ := except_bind_eq_ok.1 h
      have hf := arrow_frame hu
      obtain ⟨k, hk⟩ := ih (hf.micro ▸ hs) (hf.cw ▸ hw) ht
      have hstep : step s = .next u := by rw [step_of_running hs hp hw, hu, toOutcome_ok]
      exact ⟨k + 1, (core_run_succ hstep).trans hk⟩

/-- Settles O10: the command's meaning is its run of arrows from the head, and each of those arrows is a step. -/
theorem arrowsReachTheResponse : Obligations.ArrowsReachTheResponse := by
  unfold Obligations.ArrowsReachTheResponse
  intro c s t hs _ hcw h
  have hf := beginCommand_frame c s
  have hw : hostWord (beginCommand c s).cw = some c := by rw [hf.cw, hcw, hostWord_encode]
  obtain ⟨k, hk⟩ := core_run_of_runArrows (arrowBound s) (hf.micro ▸ hs) hw (exec_instrOf_eq_next.1 h)
  exact ⟨k, congrArg finalOutcome hk⟩

/-! ## Reset and the register map -/

/-- Settles O11: `State.reset` and the reset event are both `State.resetWith`, which writes the values of R25. -/
theorem resetLeavesTheGivenValues : Obligations.ResetLeavesTheGivenValues := by
  unfold Obligations.ResetLeavesTheGivenValues
  refine ⟨by simp [State.reset, State.resetWith], fun s => ?_⟩
  simp [resetEvent, State.resetWith, SameBytes]

/-- R19: where the fields of `STATUS` lie. -/
theorem status_layout (hwCap initDone : Bool) (st bind : BitVec 2) :
    let w : BitVec (26 + (1 + (2 + (2 + 1)))) :=
      (0 : BitVec 26) ++ (BitVec.ofBool hwCap ++ (st ++ (bind ++ BitVec.ofBool initDone)))
    w.getLsbD 0 = initDone ∧ w.extractLsb' 1 2 = bind ∧ w.extractLsb' 3 2 = st ∧ w.getLsbD 5 = hwCap ∧
      w.extractLsb' 6 26 = 0 := by
  simp only [BitVec.getLsbD_append, BitVec.extractLsb'_append_eq_ite]
  simp

/-- Settles O21: `STATUS` by its layout, the registers by the port's arms. -/
theorem hostRegistersAreTheMap : Obligations.HostRegistersAreTheMap := by
  unfold Obligations.HostRegistersAreTheMap
  intro s hm
  obtain ⟨hinit, hbind, hst, hcap, hzero⟩ := status_layout s.hwCap s.initDone s.st.code s.bind.code
  refine ⟨hinit, hbind, hst, hcap, hzero, ?_, fun hv => ?_, fun v => ⟨?_, ?_, ?_, ?_⟩⟩
  · simp [hostRead, hm]
  · simp [hostRead, hm, hv]
  all_goals simp [hostWrite, hm]

/-! ## Operations that stop -/

theorem toOutcome_of_bind_error {α : Type} {x : Except Fault α} {r : Fault} (h : x = .error r)
    (f : α → Except Fault State) : toOutcome (x >>= f) = .fault r := by
  rw [h, except_error_bind, toOutcome_error]

theorem byteStep_hardware_absent {s : State} (h : s.hwCap = false) (a : U32) (b : U8) :
    byteStep .hardware s a b = .error .checksumUnitAbsent := by
  simp [byteStep, whereUnitPresent, h]

theorem wordStep_hardware_absent {s : State} (h : s.hwCap = false) (a : U32) (w : U64) :
    wordStep .hardware s a w = .error .checksumUnitAbsent := by
  simp [wordStep, whereUnitPresent, h]

/-- Settles O42: the two steps are the unit itself. -/
theorem absentUnitStops : Obligations.AbsentUnitStops := by
  unfold Obligations.AbsentUnitStops
  exact fun _ h => ⟨toOutcome_of_bind_error (byteStep_hardware_absent h ..) _,
    toOutcome_of_bind_error (wordStep_hardware_absent h ..) _⟩

theorem readByteTable_unbuilt {s : State} (h : s.initDone = false) : readByteTable s = .error .tableNotBuilt := by
  simp [readByteTable, h]

theorem readShiftTable_unbuilt {s : State} (h : s.initDone = false) (which : TableSel) :
    readShiftTable s which = .error .tableNotBuilt := by
  simp [readShiftTable, h]

theorem byteStep_software_unbuilt {s : State} (h : s.initDone = false) (a : U32) (b : U8) :
    byteStep .software s a b = .error .tableNotBuilt := by
  simp [byteStep, readByteTable_unbuilt h]

theorem wordStep_software_unbuilt {s : State} (h : s.initDone = false) (a : U32) (w : U64) :
    wordStep .software s a w = .error .tableNotBuilt := by
  simp [wordStep, readByteTable_unbuilt h]

theorem currentMatrix_unwritten {s : State} (he : s.meven = none) (ho : s.modd = none) :
    currentMatrix s = .error .matrixUnwritten := by
  cases hs : s.scratch <;> simp [currentMatrix, hs, he, ho]

/-- Settles O58: each of the seven operations begins with the read that stops. -/
theorem unbuiltTablesAreNotRead : Obligations.UnbuiltTablesAreNotRead := by
  unfold Obligations.UnbuiltTablesAreNotRead
  refine ⟨fun s hd which => ?_, fun s he ho which => ?_⟩
  · have hshift := readShiftTable_unbuilt hd which
    exact ⟨toOutcome_of_bind_error (byteStep_software_unbuilt hd ..) _,
      toOutcome_of_bind_error (wordStep_software_unbuilt hd ..) _,
      toOutcome_of_bind_error hshift _, toOutcome_of_bind_error hshift _⟩
  · have hmatrix := currentMatrix_unwritten he ho
    exact ⟨toOutcome_of_bind_error hmatrix _, toOutcome_of_bind_error hmatrix _, toOutcome_of_bind_error hmatrix _⟩

end Sys2Proof.Machine
end

section
/-! PROOFS. The arrows of a checksum command's body one by one (10_state.md rules R11 and R24), and what every step
keeps of `BIND` and of the tables (rules R15, R16). -/

namespace Sys2Proof.Machine

/-! ## The arrows of the body -/

theorem prologueGoesOn_iff (s : State) : prologueGoesOn s = true ↔ s.len ≠ 0 ∧ s.next % 8 ≠ 0 := by
  simp [prologueGoesOn, bytesLeft, nextUnaligned]

theorem groupFits_iff (which : TableSel) (s : State) : groupFits which s = true ↔ 3 * blockOf which ≤ s.len := by
  simp [groupFits]

theorem groupFits_long_iff (s : State) : groupFits .long s = true ↔ 24576 ≤ s.len := groupFits_iff .long s

theorem groupFits_short_iff (s : State) : groupFits .short s = true ↔ 768 ≤ s.len := groupFits_iff .short s

theorem wordFits_iff (s : State) : wordFits s = true ↔ 8 ≤ s.len := by simp [wordFits]

theorem bytesLeft_iff (s : State) : bytesLeft s = true ↔ s.len ≠ 0 := by simp [bytesLeft]

/-- Settles O7: the arrows out of a phase of the body, each with the sequencer's test for the condition of R24. -/
theorem phaseArrowsFollowTheDiagram : Obligations.PhaseArrowsFollowTheDiagram := by
  unfold Obligations.PhaseArrowsFollowTheDiagram
  intro c s t h
  simp only [← prologueGoesOn_iff, ← groupFits_long_iff, ← groupFits_short_iff, ← wordFits_iff]
  simp only [← bytesLeft_iff]
  cases arrow_cases h with
  | idle ph _ | init ph _ | detect ph _ => simp [ph]
  | body e _ does =>
    cases does with
    | prologue ph guard _ m | word ph guard _ m | tail ph guard _ m => simp [ph, guard, m.ph, m.len]
    | long ph guard _ m => simp [ph, guard, m.ph, m.len, blockOf, longBlock]
    | short ph guard _ m => simp [ph, guard, m.ph, m.len, blockOf, shortBlock]
    | prologueEnds ph guard d | longEnds ph guard d | shortEnds ph guard d | wordEnds ph guard d =>
      simp [ph, guard, d, enterPhase]
    | responds ph guard d => simp [ph, guard, d, respondChecksum, respond, allOnes, finalState]

/-- Consuming bytes below the top of the address space moves `NEXT` and `LEN` by the same count (R10, R11). -/
theorem Moved.next_add_len {k : Nat} {s t : State} (h : Moved k s t) (hend : s.next + s.len < 2 ^ s.aw) :
    t.next + t.len = s.next + s.len := by
  obtain ⟨-, hnext, hlen, hk, -⟩ := h
  rw [hnext, nextAfter_of_room (by omega), hlen]
  omega

/-- Settles O8: an arrow of the body moves both registers, changes the phase alone, or responds. -/
theorem pointerPlusLengthStays : Obligations.PointerPlusLengthStays := by
  unfold Obligations.PointerPlusLengthStays
  intro c s t h hp hidle hend
  cases arrow_cases h with
  | idle ph _ | init ph _ | detect ph _ => simp [ph] at hp
  | body e _ does =>
    cases does with
    | prologue _ _ _ m | long _ _ _ m | short _ _ _ m | word _ _ _ m | tail _ _ _ m => exact m.next_add_len hend
    | prologueEnds _ _ d | longEnds _ _ d | shortEnds _ _ d | wordEnds _ _ d => rw [d, enterPhase_next, enterPhase_len]
    | responds _ _ d => exact absurd (d ▸ rfl) hidle

/-! ## The binding -/

/-- An arrow leaves a binding that was begun alone, or ends the detection (R85, R86). -/
theorem arrow_bind_of_begun {c : HostCmd} {s t : State} (hb : s.bind ≠ .uninitialized) (h : arrow c s = .ok t) :
    t.bind = s.bind ∨ (s.bind = .detecting ∧ t.bind ≠ .uninitialized) := by
  by_cases hp : s.ph = .detect
  · have ht : t = detectArrow c s := by
      simp only [arrow, hp] at h
      cases h
      rfl
    have hguard (u : State) : (afterDetectGuard c u).bind = u.bind := (afterDetectGuard_frame c u).bind
    cases hs : s.bind with
    | uninitialized => exact absurd hs hb
    | detecting =>
      have hfinish : t.bind = (finishDetect s).bind := by simp [ht, detectArrow, hs, hguard]
      rw [hfinish]
      cases hc : s.hwCap <;> simp [finishDetect, hc]
    | boundSoftware | boundHardware => exact .inl (by simp [ht, detectArrow, hs, hguard])
  · exact .inl (arrow_bind (fun _ => hb) hp h).1

/-- An operation run whole leaves a binding that was begun alone: DETECT does not start again (R15, R86). -/
theorem exec_bind_of_begun {i : Instr} {s t : State} (hb : s.bind ≠ .uninitialized) (h : exec i s = .next t) :
    t.bind = s.bind := by
  cases i with
  | init => exact runCommand_bind (c := .init) (fun _ => hb) (toOutcome_eq_next.1 h)
  | crc32c => exact runCommand_bind (c := .crc32c) (fun _ => hb) (toOutcome_eq_next.1 h)
  | crcSw => exact runCommand_bind (c := .crcSw) (fun _ => hb) (toOutcome_eq_next.1 h)
  | crcHw => exact runCommand_bind (c := .crcHw) (fun _ => hb) (toOutcome_eq_next.1 h)
  | mtimes | shift _ | swb | sww | hwb | hww =>
    obtain ⟨v, -, rfl⟩ := setOut_of_next h
    rfl
  | msquare => rw [squareScratch_eq_ok (toOutcome_eq_next.1 h)]; rfl
  | zop =>
    simp only [exec, execZop] at h
    split at h
    · cases h
    · rw [zop_eq_ok (toOutcome_eq_next.1 h)]; rfl
  | ztab which =>
    obtain ⟨m, -, rfl⟩ := ztab_eq_ok (toOutcome_eq_next.1 h)
    exact setShiftTable_bind ..
  | combine which =>
    obtain ⟨tab, -, -, rfl⟩ := combine_eq_ok (toOutcome_eq_next.1 h)
    rfl
  | btab => cases h; rfl
  | sw1 | hw1 => rw [singleLane_eq_ok (toOutcome_eq_next.1 h)]; rfl
  | sw3s | sw3l | hw3s | hw3l => exact (group_moved (toOutcome_eq_next.1 h)).frame.bind
  | detect => exact absurd (detect_eq_ok (toOutcome_eq_next.1 h)).1 hb

/-- A step leaves a binding that was begun alone, or ends the detection. -/
theorem step_bind_of_begun {s t : State} (hb : s.bind ≠ .uninitialized) (h : step s = .next t) :
    t.bind = s.bind ∨ (s.bind = .detecting ∧ t.bind ≠ .uninitialized) := by
  cases step_cases h with
  | micro _ _ _ _ does => exact .inl (exec_bind_of_begun (s := takeMicro s) hb does)
  | command _ _ _ _ _ does => exact .inl (exec_bind_of_begun (s := takeCommand s) hb does)
  | illegal _ _ _ _ does | waiting _ _ _ does => exact .inl (does ▸ rfl)
  | running _ _ _ _ does => exact arrow_bind_of_begun hb does

/-- Settles O15: a bound state is none that a detection ends. -/
theorem bindingIsTerminal : Obligations.BindingIsTerminal := by
  unfold Obligations.BindingIsTerminal
  intro s t h
  have hstep := fun hb => step_bind_of_begun hb h
  refine ⟨fun hs => ?_, fun hs => ?_, fun hb => ?_⟩
  · simpa [hs] using hstep
  · simpa [hs] using hstep
  · rcases hstep hb with ht | ⟨-, ht⟩
    · rwa [ht]
    · exact ht

/-! ## The tables -/

/-- With `INIT_DONE` set the invariant has no phase `INIT` and no micro-operation, so no step builds a table. -/
theorem Inv.step_tables {s t : State} (hi : Inv s) (hd : s.initDone = true) (h : step s = .next t) :
    TablesSame s t := by
  cases step_cases h with
  | micro _ _ slot => simp [hi.slotEmpty] at slot
  | command _ _ _ _ _ does =>
    have hrun := runCommand_tables (s := takeCommand s) hd (exec_instrOf_eq_next.1 does)
    exact ⟨hrun.initDone, hrun.bt, hrun.zs, hrun.zl⟩
  | illegal _ _ _ _ does | waiting _ _ _ does => exact does ▸ ⟨rfl, rfl, rfl, rfl⟩
  | running c _ _ word does =>
    have hp : s.ph ≠ .init := fun hp => by simpa [PhaseFits, hp, hd] using hi.phaseFits word
    exact (arrow_tables hp does).1

/-- Settles O16: the four fields that a step leaves the same. -/
theorem tablesAreWrittenOnce : Obligations.TablesAreWrittenOnce := by
  unfold Obligations.TablesAreWrittenOnce
  intro s t hi hd h
  have ht := hi.step_tables hd h
  exact ⟨ht.initDone.trans hd, ht.bt, ht.zs, ht.zl⟩

end Sys2Proof.Machine
end

section
/-! PROOFS. Buffer memory and the host's moves (20_memory.md rules R29 to R34; 60_exceptions.md rule R112), and what
each micro-operation writes (30_encoding.md rule R52). -/

namespace Sys2Proof.Machine

/-! ## 8-byte reads -/

/-- Settles O19: alignment is the first thing an 8-byte read looks at. -/
theorem misalignedWordReadStops : Obligations.MisalignedWordReadStops := by
  unfold Obligations.MisalignedWordReadStops
  intro s addr h
  rw [memRead8, if_neg h]

/-- An aligned word is assembled from the bytes at its eight addresses (R32). -/
theorem memRead8_of_bytes {s : State} {addr : Nat} {b : Fin 8 → U8} (ha : addr % 8 = 0)
    (hb : ∀ j : Fin 8, memRead1 s (addr + j.val) = .ok (b j)) :
    memRead8 s addr = .ok (littleEndian (b 0) (b 1) (b 2) (b 3) (b 4) (b 5) (b 6) (b 7)) := by
  have h0 : memRead1 s addr = .ok (b 0) := hb 0
  have h1 : memRead1 s (addr + 1) = .ok (b 1) := hb 1
  have h2 : memRead1 s (addr + 2) = .ok (b 2) := hb 2
  have h3 : memRead1 s (addr + 3) = .ok (b 3) := hb 3
  have h4 : memRead1 s (addr + 4) = .ok (b 4) := hb 4
  have h5 : memRead1 s (addr + 5) = .ok (b 5) := hb 5
  have h6 : memRead1 s (addr + 6) = .ok (b 6) := hb 6
  have h7 : memRead1 s (addr + 7) = .ok (b 7) := hb 7
  simp [memRead8, ha, h0, h1, h2, h3, h4, h5, h6, h7]

theorem toNat_append_eq_add {m n : Nat} (hi : BitVec m) (lo : BitVec n) :
    (hi ++ lo).toNat = hi.toNat * 2 ^ n + lo.toNat := by
  rw [BitVec.toNat_append, ← Nat.shiftLeft_add_eq_or_of_lt lo.isLt, Nat.shiftLeft_eq]

/-- Bytes side by side are the sum of the bytes, each shifted to its place. -/
theorem littleEndian_eq_sum (b0 b1 b2 b3 b4 b5 b6 b7 : U8) :
    littleEndian b0 b1 b2 b3 b4 b5 b6 b7 =
      b0.setWidth 64 + (b1.setWidth 64 <<< 8) + (b2.setWidth 64 <<< 16) + (b3.setWidth 64 <<< 24) +
      (b4.setWidth 64 <<< 32) + (b5.setWidth 64 <<< 40) + (b6.setWidth 64 <<< 48) + (b7.setWidth 64 <<< 56) := by
  refine BitVec.eq_of_toNat_eq ?_
  simp only [littleEndian, toNat_append_eq_add, BitVec.toNat_add, BitVec.toNat_shiftLeft, BitVec.toNat_setWidth,
    Nat.shiftLeft_eq]
  have := b0.isLt
  have := b1.isLt
  have := b2.isLt
  have := b3.isLt
  have := b4.isLt
  have := b5.isLt
  have := b6.isLt
  have := b7.isLt
  omega

/-- Settles O18: the word assembled from the bytes, as a sum. -/
theorem wordReadIsLittleEndian : Obligations.WordReadIsLittleEndian := by
  unfold Obligations.WordReadIsLittleEndian
  intro s addr b ha hb
  rw [memRead8_of_bytes ha hb, littleEndian_eq_sum]

/-! ## The host's moves -/

/-- A host write is read back at its own address and changes no other, in canonical form or not (R29). -/
theorem Memory.read_write (mem : List Host.Cell) (addr : Nat) (b : U8) (x : Nat) :
    Memory.read (Memory.write mem addr b) x = if x = addr then some b else Memory.read mem x := by
  induction mem with
  | nil => rw [Memory.write, Memory.read_cons]
  | cons c rest ih =>
    obtain ⟨k, v⟩ := c
    simp only [Memory.write]
    split
    · rw [Memory.read_cons]
    · split
      · rename_i hk
        subst hk
        simp only [Memory.read_cons]
        split <;> rfl
      · rename_i hk
        simp only [Memory.read_cons, ih]
        split
        · rename_i hx
          rw [if_neg (by omega)]
        · rfl

theorem hostMayMove_iff (s : State) : hostMayMove s = true ↔ s.ph = .idle ∧ s.cwPending = false := by
  simp [hostMayMove]

theorem hostPoke_eq_some {addr : Nat} {b : U8} {s t : State} :
    hostPoke addr b s = some t ↔
      hostMayMove s = true ∧ addr < 2 ^ s.aw ∧ t = { s with mem := Memory.write s.mem addr b } := by
  unfold hostPoke
  split
  · rename_i h
    simp only [Bool.and_eq_true, decide_eq_true_eq] at h
    simp [h, eq_comm]
  · rename_i h
    simp only [Bool.and_eq_true, decide_eq_true_eq] at h
    simp only [reduceCtorEq, false_iff]
    exact fun ⟨hm, ha, _⟩ => h ⟨hm, ha⟩

/-- Settles O20: what a write does to a later read, address by address. -/
theorem hostByteIsReadBack : Obligations.HostByteIsReadBack := by
  unfold Obligations.HostByteIsReadBack
  intro s addr b hm
  refine ⟨fun ha => ⟨_, hostPoke_eq_some.2 ⟨hm, ha, rfl⟩, ?_, fun other ho => ?_, fun hw => ?_⟩, fun ha => ?_⟩
  · exact (memRead1_ok_iff _ _ _).2 ⟨ha, by simp [Memory.read_write]⟩
  · simp only [memRead1, Memory.read_write, if_neg ho]
  · exact Memory.wf_write _ hw _ _ ha
  · simp [hostPoke, Nat.not_lt.2 ha]

/-- In `IDLE` the invariant asks of the elements the host owns only that the operands are `uAW` numbers and the memory
is canonical. -/
theorem Inv.hostMove_keeps {s : State} (h : Inv s) (hp : s.ph = .idle) {a n : Nat} {mem : List Host.Cell} (cw seed : U32)
    (pending : Bool) (ha : a < 2 ^ s.aw) (hn : n < 2 ^ s.aw) (hm : Memory.wf s.aw mem = true) :
    Inv { s with cw := cw, seed := seed, cwPending := pending, a := a, n := n, mem := mem } where
  width := h.width
  aFits := ha
  nFits := hn
  memWf := hm
  slotEmpty := h.slotEmpty
  tables := h.tables
  bind := h.bind
  detecting := h.detecting
  pending := fun _ => hp
  inProgress := fun hi => absurd hp hi

theorem Inv.hostWrite_keeps {s t : State} {number v : Nat} (h : Inv s) (hw : hostWrite number v s = some t) : Inv t := by
  have hv : v % 2 ^ s.aw < 2 ^ s.aw := Nat.mod_lt _ (Nat.two_pow_pos _)
  unfold hostWrite at hw
  split at hw
  · rename_i hm
    obtain ⟨hp, -⟩ := (hostMayMove_iff s).1 hm
    split at hw
    · cases hw
      exact h.hostMove_keeps hp _ _ _ h.aFits h.nFits h.memWf
    · cases hw
      exact h.hostMove_keeps hp _ _ _ hv h.nFits h.memWf
    · cases hw
      exact h.hostMove_keeps hp _ _ _ h.aFits hv h.memWf
    · cases hw
      exact h.hostMove_keeps hp _ _ _ h.aFits h.nFits h.memWf
    · cases hw
  · cases hw

theorem Inv.hostPoke_keeps {s t : State} {addr : Nat} {b : U8} (h : Inv s) (hw : hostPoke addr b s = some t) :
    Inv t := by
  obtain ⟨hm, ha, rfl⟩ := hostPoke_eq_some.1 hw
  exact h.hostMove_keeps ((hostMayMove_iff s).1 hm).1 _ _ _ h.aFits h.nFits (Memory.wf_write _ h.memWf _ _ ha)

/-- Settles O14: register writes, bytes set by the host, and reset over its memory. -/
theorem hostMovesKeepTheInvariant : Obligations.HostMovesKeepTheInvariant := by
  unfold Obligations.HostMovesKeepTheInvariant
  exact fun _ h => ⟨fun _ _ _ hw => h.hostWrite_keeps hw, fun _ _ _ hw => h.hostPoke_keeps hw,
    resetWith_inv h.width h.memWf⟩

/-! ## Frames of the micro-operations -/

/-- Settles O59: each operation answers in one form only, which names what it writes. -/
theorem microOperationsKeepTheirFrame : Obligations.MicroOperationsKeepTheirFrame := by
  unfold Obligations.MicroOperationsKeepTheirFrame
  intro s t i h
  refine ⟨?_, ?_, ?_, ?_, ?_, ?_, ?_, ?_, ?_, memRead1_congr (exec_frame h).aw (exec_frame h).mem⟩
  · rintro (rfl | rfl | rfl | rfl | rfl | rfl | rfl) <;>
      · obtain ⟨v, -, rfl⟩ := setOut_of_next h
        rfl
  · rintro (rfl | rfl)
    · exact squareScratch_eq_ok (toOutcome_eq_next.1 h)
    · simp only [exec, execZop] at h
      split at h
      · cases h
      · exact zop_eq_ok (toOutcome_eq_next.1 h)
  · rintro rfl
    obtain ⟨m, -, rfl⟩ := ztab_eq_ok (toOutcome_eq_next.1 h)
    rfl
  · rintro rfl
    obtain ⟨m, -, rfl⟩ := ztab_eq_ok (toOutcome_eq_next.1 h)
    rfl
  · rintro rfl
    cases h
    rfl
  · rintro (rfl | rfl) <;>
      · obtain ⟨tab, -, -, rfl⟩ := combine_eq_ok (toOutcome_eq_next.1 h)
        rfl
  · rintro (rfl | rfl) <;> exact singleLane_eq_ok (toOutcome_eq_next.1 h)
  · rintro (rfl | rfl | rfl | rfl) <;> exact (group_moved (toOutcome_eq_next.1 h)).1
  · rintro rfl
    obtain ⟨-, rfl⟩ := detect_eq_ok (toOutcome_eq_next.1 h)
    rfl

end Sys2Proof.Machine
end

section
/-! PROOFS. The bytes still to come in a checksum command's body (10_state.md rules R10, R11): an arrow that consumes
bytes has read them, and takes them alone off the bytes still to come. -/

namespace Sys2Proof.Machine

/-- The phases of a checksum command's body (R24). -/
def InBody (s : State) : Prop := s.ph ≠ .idle ∧ s.ph ≠ .init ∧ s.ph ≠ .detect

/-- The address of a byte still to come, `NEXT .. NEXT+LEN-1` (R10, R11). -/
def ToCome (s : State) (addr : Nat) : Prop := s.next ≤ addr ∧ addr < s.next + s.len

/-- Every byte of a range is readable. -/
def Readable (s : State) (first count : Nat) : Prop := ∀ j < count, ∃ b, memRead1 s (first + j) = .ok b

theorem readable_of_memRead8 {s : State} {addr : Nat} {w : U64} (h : memRead8 s addr = .ok w) :
    Readable s addr 8 := by
  unfold memRead8 at h
  split at h
  · simp only [bind_eq_ok] at h
    obtain ⟨b0, h0, b1, h1, b2, h2, b3, h3, b4, h4, b5, h5, b6, h6, b7, h7, -⟩ := h
    intro j hj
    interval_cases j
    exacts [⟨b0, h0⟩, ⟨b1, h1⟩, ⟨b2, h2⟩, ⟨b3, h3⟩, ⟨b4, h4⟩, ⟨b5, h5⟩, ⟨b6, h6⟩, ⟨b7, h7⟩]
  · cases h

/-- An iteration of a group has read a word of each lane. -/
theorem laneIteration_reads {e : Engine} {block i : Nat} {s t : State} (h : laneIteration e block i s = .ok t) :
    ∀ lane < 3, Readable s (s.next + lane * block + 8 * i) 8 := by
  simp only [laneIteration, bind_eq_ok] at h
  obtain ⟨w0, h0, -, -, w1, h1, -, -, w2, h2, -⟩ := h
  intro lane hl
  interval_cases lane
  · rw [Nat.zero_mul]
    exact readable_of_memRead8 h0
  · rw [Nat.one_mul]
    exact readable_of_memRead8 h1
  · exact readable_of_memRead8 h2

theorem laneLoop_reads {e : Engine} {block count : Nat} {s t : State} (h : laneLoop e block count s = .ok t) :
    ∀ i < count, ∀ lane < 3, Readable s (s.next + lane * block + 8 * i) 8 := by
  induction count generalizing t with
  | zero => exact fun i hi => absurd hi (Nat.not_lt_zero i)
  | succ count ih =>
    obtain ⟨u, hu, ht⟩ := except_bind_eq_ok.1 h
    have hlast := laneIteration_reads ht
    rw [laneLoop_eq_ok hu] at hlast
    intro i hi
    rcases Nat.lt_succ_iff_lt_or_eq.1 hi with hi | rfl
    · exact ih hu i hi
    · exact hlast

/-- The three lanes of a group cover its `3*BLOCK` bytes (R70). -/
theorem group_reads {e : Engine} {which : TableSel} {s t : State} (h : group e which s = .ok t) :
    Readable s s.next (3 * blockOf which) := by
  unfold group at h
  split at h
  · obtain ⟨u, hu, -⟩ := bind_eq_ok.1 h
    have hword : ∀ i < blockOf which / 8, ∀ lane < 3, Readable s (s.next + lane * blockOf which + 8 * i) 8 :=
      laneLoop_reads (s := setAcc2 0 (setAcc1 0 s)) hu
    intro j hj
    have hpos : 0 < blockOf which := by cases which <;> decide
    have h8 : blockOf which % 8 = 0 := by cases which <;> rfl
    have hlane : j / blockOf which < 3 := (Nat.div_lt_iff_lt_mul hpos).2 hj
    have hin : j % blockOf which < blockOf which := Nat.mod_lt _ hpos
    have hsplit : j / blockOf which * blockOf which + j % blockOf which = j := by
      rw [Nat.mul_comm]
      exact Nat.div_add_mod ..
    obtain ⟨b, hb⟩ := hword (j % blockOf which / 8) (by omega) _ hlane (j % blockOf which % 8) (by omega)
    refine ⟨b, ?_⟩
    rw [← hb]
    congr 1
    omega
  · cases h

/-- An arrow of the body consumes bytes it has read, or leaves `NEXT` and `LEN` alone and responds only with no byte
left. -/
theorem BodyArrow.reads_or_stays {e : Engine} {s t : State} (h : BodyArrow e s t) :
    (∃ k, Moved k s t ∧ Readable s s.next k) ∨
    (t.next = s.next ∧ t.len = s.len ∧ (t.ph = .idle → s.len = 0)) := by
  have hbyte : consumeByte e s = .ok t → Readable s s.next 1 := by
    intro hc j hj
    obtain ⟨b, -, hb, -⟩ := consumeByte_eq_ok hc
    rw [Nat.lt_one_iff.1 hj]
    exact ⟨b, hb⟩
  cases h with
  | prologue _ _ does m | tail _ _ does m => exact .inl ⟨1, m, hbyte does⟩
  | long _ _ does m | short _ _ does m => exact .inl ⟨_, m, group_reads does⟩
  | word _ _ does m =>
    obtain ⟨w, -, hw, -⟩ := consumeWord_eq_ok does
    exact .inl ⟨8, m, readable_of_memRead8 hw⟩
  | prologueEnds _ _ d | longEnds _ _ d | shortEnds _ _ d | wordEnds _ _ d =>
    subst d
    exact .inr ⟨rfl, rfl, nofun⟩
  | responds _ guard d =>
    subst d
    exact .inr ⟨rfl, rfl, fun _ => by simpa [bytesLeft] using guard⟩

theorem BodyArrow.source_inBody {e : Engine} {s t : State} (h : BodyArrow e s t) : InBody s := by
  cases h with
  | prologue ph | prologueEnds ph | long ph | longEnds ph | short ph | shortEnds ph | word ph | wordEnds ph | tail ph
  | responds ph => simp [InBody, ph]

/-- Consuming bytes takes them, and no others, off the bytes still to come. -/
theorem Moved.toCome_iff {k : Nat} {s t : State} (h : Moved k s t) (addr : Nat) :
    ToCome t addr ↔ s.next + k ≤ addr ∧ ToCome s addr := by
  have ⟨_, _, hlen, hk, _⟩ := h
  by_cases hl : t.len = 0
  · simp only [ToCome]
    omega
  · simp only [ToCome, h.next hl]
    omega

theorem BodyArrow.toCome_of {e : Engine} {s t : State} (h : BodyArrow e s t) {addr : Nat} (ht : ToCome t addr) :
    ToCome s addr := by
  obtain ⟨k, hm, -⟩ | ⟨hnext, hlen, -⟩ := h.reads_or_stays
  · exact ((hm.toCome_iff addr).1 ht).2
  · rwa [ToCome, hnext, hlen] at ht

/-- A byte that is not readable stays to come, and the body does not end. -/
theorem BodyArrow.toCome_of_unreadable {e : Engine} {s t : State} (h : BodyArrow e s t) {addr : Nat}
    (hs : ToCome s addr) (hu : ∀ b, memRead1 s addr ≠ .ok b) : InBody t ∧ ToCome t addr := by
  obtain ⟨k, hm, hr⟩ | ⟨hnext, hlen, hidle⟩ := h.reads_or_stays
  · refine ⟨by simpa only [InBody, hm.ph] using h.source_inBody, (hm.toCome_iff addr).2 ⟨?_, hs⟩⟩
    by_contra hlt
    obtain ⟨b, hb⟩ := hr (addr - s.next) (by have := hs.1; omega)
    rw [Nat.add_sub_cancel' hs.1] at hb
    exact hu b hb
  · refine ⟨⟨fun hp => ?_, h.ph_ne⟩, by rwa [ToCome, hnext, hlen]⟩
    have := hidle hp
    have := hs.2
    have := hs.1
    omega

end Sys2Proof.Machine
end

section
/-! PROOFS. A command depends on no byte outside its buffer (20_memory.md rules R29, R35): each operation over a state
with another memory is the operation over the state, where the two memories read the same. -/

namespace Sys2Proof.Machine

/-! ## A state with another memory -/

/-- The state over another memory of the host's. -/
def withMem (mem : List Host.Cell) (s : State) : State := { s with mem := mem }

/-- Two memories read the same in a range. -/
def SameOn (mem mem' : List Host.Cell) (first count : Nat) : Prop :=
  ∀ addr : Nat, first ≤ addr → addr < first + count → Memory.read mem addr = Memory.read mem' addr

theorem SameOn.mono {mem mem' : List Host.Cell} {first count first' count' : Nat} (h : SameOn mem mem' first count)
    (h1 : first ≤ first') (h2 : first' + count' ≤ first + count) : SameOn mem mem' first' count' :=
  fun addr ha hb => h addr (h1.trans ha) (hb.trans_le h2)

/-- The operation does over another memory what it does over this one, stops included. -/
def MemIrrelevant (mem : List Host.Cell) (f : State → Except Fault State) (s : State) : Prop :=
  f (withMem mem s) = (f s).map (withMem mem)

theorem except_map_bind {α β γ : Type} (x : Except Fault α) (f : α → Except Fault β) (g : β → γ) :
    (x >>= f).map g = x >>= fun a => (f a).map g := by
  cases x <;> rfl

/-- One operation after another. -/
theorem bind_withMem {mem : List Host.Cell} {x x' : Except Fault State} {f : State → Except Fault State}
    (hx : x' = x.map (withMem mem)) (hf : ∀ u, x = .ok u → MemIrrelevant mem f u) :
    (x' >>= f) = (x >>= f).map (withMem mem) := by
  subst hx
  cases x with
  | error => rfl
  | ok u => exact hf u rfl

section
variable {mem : List Host.Cell} {s : State}

theorem memRead1_withMem {addr : Nat} (h : Memory.read mem addr = Memory.read s.mem addr) :
    memRead1 (withMem mem s) addr = memRead1 s addr := by
  simp only [memRead1, withMem, h]

theorem memRead8_withMem {addr : Nat} (h : SameOn mem s.mem addr 8) :
    memRead8 (withMem mem s) addr = memRead8 s addr := by
  have h0 : memRead1 (withMem mem s) addr = memRead1 s addr := memRead1_withMem (h addr le_rfl (by omega))
  have hj : ∀ j < 8, memRead1 (withMem mem s) (addr + j) = memRead1 s (addr + j) :=
    fun j hj => memRead1_withMem (h (addr + j) (by omega) (by omega))
  simp only [memRead8, h0, hj 1 (by omega), hj 2 (by omega), hj 3 (by omega), hj 4 (by omega), hj 5 (by omega),
    hj 6 (by omega), hj 7 (by omega)]

theorem byteStep_withMem (e : Engine) (a : U32) (b : U8) : byteStep e (withMem mem s) a b = byteStep e s a b := by
  cases e <;> rfl

theorem wordStep_withMem (e : Engine) (a : U32) (w : U64) : wordStep e (withMem mem s) a w = wordStep e s a w := by
  cases e <;> rfl

/-! ### The operations of the body -/

theorem advance_withMem (k : Nat) (s : State) : MemIrrelevant mem (advance k) s := by
  simp only [MemIrrelevant, advance, apply_ite (Except.map (withMem mem))]
  rfl

theorem consumeByte_withMem (e : Engine) (h : SameOn mem s.mem s.next 1) : MemIrrelevant mem (consumeByte e) s := by
  have hb : nextByte (withMem mem s) = nextByte s := memRead1_withMem (h s.next le_rfl (by omega))
  rw [MemIrrelevant, consumeByte, consumeByte, hb, except_map_bind]
  refine bind_congr fun b => ?_
  rw [byteStep_withMem, except_map_bind]
  exact bind_congr fun v => advance_withMem 1 (setAcc0 v s)

theorem consumeWord_withMem (e : Engine) (h : SameOn mem s.mem s.next 8) : MemIrrelevant mem (consumeWord e) s := by
  have hw : nextWord (withMem mem s) = nextWord s := memRead8_withMem h
  rw [MemIrrelevant, consumeWord, consumeWord, hw, except_map_bind]
  refine bind_congr fun w => ?_
  rw [wordStep_withMem, except_map_bind]
  exact bind_congr fun v => advance_withMem 8 (setAcc0 v s)

theorem laneIteration_withMem (e : Engine) {block i : Nat}
    (h : ∀ lane < 3, SameOn mem s.mem (s.next + lane * block + 8 * i) 8) :
    MemIrrelevant mem (laneIteration e block i) s := by
  have h0 := memRead8_withMem (h 0 (by omega))
  have h1 := memRead8_withMem (h 1 (by omega))
  have h2 := memRead8_withMem (h 2 (by omega))
  rw [Nat.zero_mul, Nat.add_zero] at h0
  rw [Nat.one_mul] at h1
  have hn : (withMem mem s).next = s.next := rfl
  simp only [MemIrrelevant, laneIteration, except_map_bind, hn, wordStep_withMem, h0, h1, h2]
  rfl

theorem laneLoop_withMem (e : Engine) {block : Nat} (count : Nat)
    (h : ∀ i < count, ∀ lane < 3, SameOn mem s.mem (s.next + lane * block + 8 * i) 8) :
    MemIrrelevant mem (laneLoop e block count) s := by
  induction count with
  | zero => rfl
  | succ count ih =>
    refine bind_withMem (ih fun i hi => h i (by omega)) fun u hu => laneIteration_withMem e ?_
    rw [laneLoop_eq_ok hu]
    exact h count (by omega)

theorem combine_withMem (which : TableSel) (s : State) : MemIrrelevant mem (combine which) s := by
  have ht : readShiftTable (withMem mem s) which = readShiftTable s which := by cases which <;> rfl
  rw [MemIrrelevant, combine, combine, ht, except_map_bind]
  rfl

theorem group_withMem (e : Engine) {which : TableSel} (h : SameOn mem s.mem s.next (3 * blockOf which)) :
    MemIrrelevant mem (group e which) s := by
  have hfits : groupFits which (withMem mem s) = groupFits which s := rfl
  unfold MemIrrelevant group
  rw [hfits]
  split
  · refine bind_withMem ?_ fun u _ => bind_withMem (combine_withMem which u) fun v _ => advance_withMem _ v
    refine laneLoop_withMem (s := setAcc2 0 (setAcc1 0 s)) e _ fun i hi lane hlane => ?_
    have hlb : lane * blockOf which ≤ 2 * blockOf which := Nat.mul_le_mul_right _ (by omega)
    exact h.mono (by simp; omega) (by simp; omega)
  · rfl

/-! ### The guards -/

theorem squareScratch_withMem (s : State) : MemIrrelevant mem squareScratch s := by
  have hm : currentMatrix (withMem mem s) = currentMatrix s := rfl
  have hw : (withMem mem s).scratch = s.scratch := rfl
  rw [MemIrrelevant, squareScratch, squareScratch, hm, hw, except_map_bind]
  refine bind_congr fun m => ?_
  cases s.scratch <;> rfl

theorem squareTimes_withMem (count : Nat) (s : State) : MemIrrelevant mem (squareTimes count) s := by
  induction count generalizing s with
  | zero => rfl
  | succ count ih => exact bind_withMem (squareScratch_withMem s) fun u _ => ih u

theorem ztab_withMem (which : TableSel) (s : State) : MemIrrelevant mem (ztab which) s := by
  have hm : currentMatrix (withMem mem s) = currentMatrix s := rfl
  rw [MemIrrelevant, ztab, ztab, hm, except_map_bind]
  refine bind_congr fun m => ?_
  cases which <;> rfl

theorem buildTables_withMem (s : State) : MemIrrelevant mem buildTables s :=
  bind_withMem (squareTimes_withMem _ (setOdd zbase (btab s))) fun _ _ =>
    bind_withMem (ztab_withMem ..) fun u _ =>
      bind_withMem (squareTimes_withMem _ (setOdd zbase u)) fun _ _ =>
        bind_withMem (ztab_withMem ..) fun _ _ => rfl

theorem afterDetectGuard_withMem (c : HostCmd) (s : State) :
    afterDetectGuard c (withMem mem s) = withMem mem (afterDetectGuard c s) := by
  cases c <;> rfl

theorem afterInitGuard_withMem (c : HostCmd) (s : State) :
    afterInitGuard c (withMem mem s) = withMem mem (afterInitGuard c s) := by
  have hb : (withMem mem s).bind = s.bind := rfl
  simp only [afterInitGuard, hb, afterDetectGuard_withMem]
  cases c with
  | init | crc32c => simp only [apply_ite (withMem mem)]; rfl
  | crcSw | crcHw => rfl

theorem detectArrow_withMem (c : HostCmd) (s : State) :
    detectArrow c (withMem mem s) = withMem mem (detectArrow c s) := by
  have hb : (withMem mem s).bind = s.bind := rfl
  unfold detectArrow
  rw [hb]
  cases s.bind with
  | uninitialized => rfl
  | detecting => exact afterDetectGuard_withMem c (finishDetect s)
  | boundSoftware | boundHardware => exact afterDetectGuard_withMem c s

theorem beginCommand_withMem (c : HostCmd) (s : State) :
    beginCommand c (withMem mem s) = withMem mem (beginCommand c s) := by
  have hc : (withMem mem s).hwCap = s.hwCap := rfl
  have hd : (withMem mem s).initDone = s.initDone := rfl
  simp only [beginCommand, hc, hd, afterInitGuard_withMem, apply_ite (withMem mem)]
  rfl

/-! ### Arrows -/

/-- The shape of an arrow of the body: with its engine it consumes bytes under its guard, and leaves the phase without. -/
theorem bodyArrow_withMem {consume : Engine → State → Except Fault State} {leave : State → State} {guard : Bool}
    (engine : Except Fault Engine) (hleave : leave (withMem mem s) = withMem mem (leave s))
    (hconsume : guard = true → ∀ e, MemIrrelevant mem (consume e) s) :
    (do let e ← engine; if guard then consume e (withMem mem s) else .ok (leave (withMem mem s))) =
      (do let e ← engine; if guard then consume e s else .ok (leave s)).map (withMem mem) := by
  rw [except_map_bind, hleave]
  refine bind_congr fun e => ?_
  split
  · rename_i hg
    exact hconsume hg e
  · rfl

/-- An arrow reads nothing but bytes still to come in the body, and nothing at all outside it. -/
theorem arrow_withMem (c : HostCmd) (h : InBody s → SameOn mem s.mem s.next s.len) : MemIrrelevant mem (arrow c) s := by
  have hphase : (withMem mem s).ph = s.ph := rfl
  have hengine : engineFor c (withMem mem s) = engineFor c s := rfl
  have hahead {k : Nat} (hb : InBody s) (hk : k ≤ s.len) : SameOn mem s.mem s.next k := (h hb).mono le_rfl (by omega)
  unfold MemIrrelevant arrow
  rw [hphase, hengine]
  cases hp : s.ph with
  | idle => rfl
  | init =>
    have hbuild : buildTables (withMem mem s) = (buildTables s).map (withMem mem) := buildTables_withMem s
    simp only [hbuild]
    cases buildTables s with
    | error => rfl
    | ok u => exact congrArg Except.ok (afterInitGuard_withMem c u)
  | detect => exact congrArg Except.ok (detectArrow_withMem c s)
  | p =>
    refine bodyArrow_withMem (consume := consumeByte) (leave := enterPhase .l) _ rfl fun hg e => ?_
    have hl := ((prologueGoesOn_iff s).1 hg).1
    exact consumeByte_withMem e (hahead (by simp [InBody, hp]) (by omega))
  | l =>
    refine bodyArrow_withMem (consume := fun e => group e .long) (leave := enterPhase .s) _ rfl fun hg e => ?_
    exact group_withMem e (hahead (by simp [InBody, hp]) ((groupFits_iff .long s).1 hg))
  | s =>
    refine bodyArrow_withMem (consume := fun e => group e .short) (leave := enterPhase .w) _ rfl fun hg e => ?_
    exact group_withMem e (hahead (by simp [InBody, hp]) ((groupFits_iff .short s).1 hg))
  | w =>
    refine bodyArrow_withMem (consume := consumeWord) (leave := enterPhase .t) _ rfl fun hg e => ?_
    exact consumeWord_withMem e (hahead (by simp [InBody, hp]) ((wordFits_iff s).1 hg))
  | t =>
    refine bodyArrow_withMem (consume := consumeByte) (leave := respondChecksum) _ rfl fun hg e => ?_
    have hl := (bytesLeft_iff s).1 hg
    exact consumeByte_withMem e (hahead (by simp [InBody, hp]) (by omega))

/-! ## Commands -/

/-- The bytes still to come are bytes of the buffer (R11). -/
def ToComeInBuffer (s : State) : Prop :=
  InBody s → ∀ addr : Nat, ToCome s addr → s.a ≤ addr ∧ addr < s.a + s.n

theorem toComeInBuffer_afterDetectGuard (c : HostCmd) (s : State) : ToComeInBuffer (afterDetectGuard c s) := by
  cases c with
  | init => exact fun hb => absurd rfl hb.1
  | crc32c | crcSw | crcHw => exact fun _ _ h => h

theorem toComeInBuffer_afterInitGuard (c : HostCmd) (s : State) : ToComeInBuffer (afterInitGuard c s) := by
  obtain ⟨h, -⟩ | ⟨h, -⟩ := afterInitGuard_cases c s
  · exact h ▸ fun hb => absurd rfl hb.2.2
  · exact h ▸ toComeInBuffer_afterDetectGuard c s

theorem toComeInBuffer_beginCommand (c : HostCmd) (s : State) : ToComeInBuffer (beginCommand c s) := by
  obtain ⟨h, -⟩ | ⟨-, -, h⟩ | ⟨-, -, h⟩ := beginCommand_cases c s
  · exact h ▸ fun hb => absurd rfl hb.1
  · exact h ▸ toComeInBuffer_afterInitGuard c s
  · exact h ▸ fun hb => absurd rfl hb.2.1

theorem ToComeInBuffer.arrow_keeps {c : HostCmd} {t : State} (h : ToComeInBuffer s) (ha : arrow c s = .ok t) :
    ToComeInBuffer t := by
  cases arrow_cases ha with
  | idle _ d => exact d ▸ h
  | init _ d =>
    obtain ⟨me, mo, w, rfl⟩ := d
    exact toComeInBuffer_afterInitGuard _ _
  | detect ph d =>
    subst d
    unfold detectArrow
    split
    · exact fun hb => absurd ph hb.2.2
    all_goals exact toComeInBuffer_afterDetectGuard _ _
  | body e _ d =>
    intro _ addr hc
    rw [d.frame.a, d.frame.n]
    exact h d.source_inBody addr (d.toCome_of hc)

/-- A run of arrows over a memory that reads the same in the buffer (R29, R35). -/
theorem runArrows_withMem (c : HostCmd) (count : Nat) (h : SameOn mem s.mem s.a s.n) (hin : ToComeInBuffer s) :
    MemIrrelevant mem (runArrows c count) s := by
  induction count generalizing s with
  | zero => rfl
  | succ count ih =>
    have hphase : (withMem mem s).ph = s.ph := rfl
    simp only [MemIrrelevant, runArrows, hphase]
    split
    · rfl
    · refine bind_withMem (arrow_withMem c fun hb addr h1 h2 => ?_) fun u hu => ?_
      · obtain ⟨ha, hn⟩ := hin hb addr ⟨h1, h2⟩
        exact h addr ha hn
      · have hf := arrow_frame hu
        exact ih (by rwa [hf.mem, hf.a, hf.n]) (hin.arrow_keeps hu)

theorem runCommand_withMem (c : HostCmd) (h : SameOn mem s.mem s.a s.n) : MemIrrelevant mem (runCommand c) s := by
  have hf := beginCommand_frame c s
  rw [MemIrrelevant, runCommand, beginCommand_withMem]
  exact runArrows_withMem c _ (by rwa [hf.mem, hf.a, hf.n]) (toComeInBuffer_beginCommand c s)

end

/-- Settles O57: the run of the command over the other memory is its run, the memory aside. -/
theorem onlyTheBufferMatters : Obligations.OnlyTheBufferMatters := by
  unfold Obligations.OnlyTheBufferMatters
  intro c s mem' h
  have hrun : runCommand c { s with mem := mem' } = (runCommand c s).map (withMem mem') := runCommand_withMem c h
  simp only [exec_instrOf, hrun, toOutcome_eq_next, toOutcome_eq_fault]
  refine ⟨fun t ht => ?_, fun f hf => ?_⟩
  · rw [ht]
    rfl
  · rw [hf]
    rfl

end Sys2Proof.Machine
end

section
/-! PROOFS. A checksum command over a buffer that is not all readable is stuck (60_exceptions.md rule R101): it can stop
at a read of the buffer alone, and a byte that is not readable keeps it from its response. -/

namespace Sys2Proof.Machine

/-! ## Operations that stop at the buffer alone -/

/-- The operation stops, if it does, for a byte of the buffer: not admitted by the host's memory, or past the top of the
address space (U1, U2). -/
def StopsAtBuffer {α : Type} (x : Except Fault α) : Prop :=
  ∀ f, x = .error f → f = .unreadableAddress ∨ f = .addressPastTop

theorem StopsAtBuffer.ok {α : Type} (a : α) : StopsAtBuffer (.ok a) := nofun

theorem StopsAtBuffer.bind {α β : Type} {x : Except Fault α} {f : α → Except Fault β} (hx : StopsAtBuffer x)
    (hf : ∀ a, x = .ok a → StopsAtBuffer (f a)) : StopsAtBuffer (x >>= f) := by
  cases x with
  | error r =>
    intro r' h
    cases h
    exact hx r rfl
  | ok a => exact hf a rfl

theorem memRead1_stopsAtBuffer (s : State) (addr : Nat) : StopsAtBuffer (memRead1 s addr) := by
  intro f h
  unfold memRead1 at h
  split at h
  · split at h <;> cases h
    exact .inl rfl
  · cases h
    exact .inr rfl

theorem memRead8_stopsAtBuffer {s : State} {addr : Nat} (ha : addr % 8 = 0) : StopsAtBuffer (memRead8 s addr) := by
  have hread := memRead1_stopsAtBuffer s
  rw [memRead8, if_pos ha]
  exact (hread _).bind fun _ _ => (hread _).bind fun _ _ => (hread _).bind fun _ _ => (hread _).bind fun _ _ =>
    (hread _).bind fun _ _ => (hread _).bind fun _ _ => (hread _).bind fun _ _ => (hread _).bind fun _ _ => .ok _

theorem advance_stopsAtBuffer (k : Nat) (s : State) : StopsAtBuffer (advance k s) := by
  intro f h
  unfold advance at h
  split at h <;> cases h
  exact .inr rfl

theorem EngineReady.of_frame {e : Engine} {s t : State} (h : EngineReady e s) (hf : BodyFrame s t) :
    EngineReady e t := by
  obtain ⟨hd, ht, hc⟩ := h
  exact ⟨hf.initDone.trans hd, hf.tablesBuilt ht, by rwa [hf.hwCap]⟩

theorem EngineReady.byteStep_answers {e : Engine} {s : State} (h : EngineReady e s) (a : U32) (b : U8) :
    ∃ v, byteStep e s a b = .ok v := by
  obtain ⟨hd, ht, hc⟩ := h
  cases e with
  | software => exact ⟨_, software_byteStep hd (ht hd).1 a b⟩
  | hardware => exact ⟨_, hardware_byteStep (hc rfl) a b⟩

theorem EngineReady.wordStep_answers {e : Engine} {s : State} (h : EngineReady e s) (a : U32) (w : U64) :
    ∃ v, wordStep e s a w = .ok v := by
  obtain ⟨hd, ht, hc⟩ := h
  cases e with
  | software => exact ⟨_, software_wordStep hd (ht hd).1 a w⟩
  | hardware => exact ⟨_, hardware_wordStep (hc rfl) a w⟩

theorem EngineReady.byteStep_stopsAtBuffer {e : Engine} {s : State} (h : EngineReady e s) (a : U32) (b : U8) :
    StopsAtBuffer (byteStep e s a b) := by
  obtain ⟨v, hv⟩ := h.byteStep_answers a b
  exact hv ▸ .ok v

theorem EngineReady.wordStep_stopsAtBuffer {e : Engine} {s : State} (h : EngineReady e s) (a : U32) (w : U64) :
    StopsAtBuffer (wordStep e s a w) := by
  obtain ⟨v, hv⟩ := h.wordStep_answers a w
  exact hv ▸ .ok v

section
variable {e : Engine} {s : State}

theorem consumeByte_stopsAtBuffer (h : EngineReady e s) : StopsAtBuffer (consumeByte e s) :=
  (memRead1_stopsAtBuffer _ _).bind fun _ _ => (h.byteStep_stopsAtBuffer _ _).bind fun _ _ => advance_stopsAtBuffer _ _

theorem consumeWord_stopsAtBuffer (h : EngineReady e s) (hn : s.next % 8 = 0) : StopsAtBuffer (consumeWord e s) :=
  (memRead8_stopsAtBuffer hn).bind fun _ _ => (h.wordStep_stopsAtBuffer _ _).bind fun _ _ => advance_stopsAtBuffer _ _

theorem laneIteration_stopsAtBuffer {block : Nat} (i : Nat) (h : EngineReady e s) (hn : s.next % 8 = 0)
    (hb : block % 8 = 0) : StopsAtBuffer (laneIteration e block i s) := by
  have hword (w : U64) (a : U32) := h.wordStep_stopsAtBuffer a w
  exact (memRead8_stopsAtBuffer (by omega)).bind fun w0 _ => (hword w0 _).bind fun _ _ =>
    (memRead8_stopsAtBuffer (by omega)).bind fun w1 _ => (hword w1 _).bind fun _ _ =>
    (memRead8_stopsAtBuffer (by omega)).bind fun w2 _ => (hword w2 _).bind fun _ _ => .ok _

theorem laneLoop_stopsAtBuffer {block : Nat} (count : Nat) (h : EngineReady e s) (hn : s.next % 8 = 0)
    (hb : block % 8 = 0) : StopsAtBuffer (laneLoop e block count s) := by
  induction count with
  | zero => exact .ok s
  | succ count ih =>
    refine ih.bind fun u hu => ?_
    have hl := laneLoop_eq_ok hu
    exact laneIteration_stopsAtBuffer count (h.of_frame (hl ▸ registers_frame ..)) (hl ▸ hn) hb

theorem combine_stopsAtBuffer (which : TableSel) (h : EngineReady e s) : StopsAtBuffer (combine which s) := by
  obtain ⟨hd, ht, -⟩ := h
  obtain ⟨-, hs, hl⟩ := ht hd
  have hread : readShiftTable s which = .ok (closedShiftTable which) := by
    refine readShiftTable_eq_ok.2 ⟨hd, ?_⟩
    cases which
    · exact hs
    · exact hl
  rw [combine, hread]
  exact .ok _

theorem group_stopsAtBuffer {which : TableSel} (h : EngineReady e s) (hn : s.next % 8 = 0)
    (hf : groupFits which s = true) : StopsAtBuffer (group e which s) := by
  have hb : blockOf which % 8 = 0 := by cases which <;> rfl
  have hz : EngineReady e (setAcc2 0 (setAcc1 0 s)) := h.of_frame (registers_frame ..)
  rw [group, if_pos hf]
  refine (laneLoop_stopsAtBuffer _ hz hn hb).bind fun u hu => ?_
  have hu : EngineReady e u := hz.of_frame (laneLoop_eq_ok hu ▸ registers_frame ..)
  exact (combine_stopsAtBuffer which hu).bind fun _ _ => advance_stopsAtBuffer _ _

end

/-! ## The body of a checksum command -/

/-- The engine of the command stands ready, and the phases that read words find `NEXT` aligned (R24, R34). -/
structure BodyReady (c : HostCmd) (s : State) : Prop where
  engine : ∃ e, engineFor c s = .ok e ∧ EngineReady e s
  aligned : (s.ph = .l ∨ s.ph = .s ∨ s.ph = .w) → s.len ≠ 0 → s.next % 8 = 0
  guarded : s.ph ≠ .init ∧ s.ph ≠ .detect

theorem engineFor_of_bind {s t : State} (c : HostCmd) (h : t.bind = s.bind) : engineFor c t = engineFor c s := by
  unfold engineFor
  rw [h]

theorem BodyReady.arrow_stopsAtBuffer {c : HostCmd} {s : State} (h : BodyReady c s) : StopsAtBuffer (arrow c s) := by
  obtain ⟨⟨e, he, hr⟩, haligned, hinit, hdetect⟩ := h
  unfold arrow
  rw [he]
  simp only [except_ok_bind]
  cases hp : s.ph with
  | idle => exact .ok s
  | init => exact absurd hp hinit
  | detect => exact absurd hp hdetect
  | p | t =>
    simp only
    split
    · exact consumeByte_stopsAtBuffer hr
    · exact .ok _
  | l =>
    simp only
    split
    · rename_i hg
      have hl := (groupFits_long_iff s).1 hg
      exact group_stopsAtBuffer hr (haligned (by simp [hp]) (by omega)) hg
    · exact .ok _
  | s =>
    simp only
    split
    · rename_i hg
      have hl := (groupFits_short_iff s).1 hg
      exact group_stopsAtBuffer hr (haligned (by simp [hp]) (by omega)) hg
    · exact .ok _
  | w =>
    simp only
    split
    · rename_i hg
      have hl := (wordFits_iff s).1 hg
      exact consumeWord_stopsAtBuffer hr (haligned (by simp [hp]) (by omega))
    · exact .ok _

/-- The body's arrows keep `NEXT` aligned for the phases that read words (R24). -/
theorem BodyArrow.aligned {e : Engine} {s t : State} (h : BodyArrow e s t)
    (hs : (s.ph = .l ∨ s.ph = .s ∨ s.ph = .w) → s.len ≠ 0 → s.next % 8 = 0) :
    (t.ph = .l ∨ t.ph = .s ∨ t.ph = .w) → t.len ≠ 0 → t.next % 8 = 0 := by
  cases h with
  | prologue ph _ _ m | tail ph _ _ m => simp [m.ph, ph]
  | long ph _ _ m | short ph _ _ m | word ph _ _ m => exact fun _ => m.aligned rfl (hs (by simp [ph]))
  | prologueEnds _ guard d =>
    subst d
    intro _ hl
    by_contra ha
    simp [(prologueGoesOn_iff s).2 ⟨hl, ha⟩] at guard
  | longEnds ph _ d | shortEnds ph _ d =>
    subst d
    exact fun _ => hs (by simp [ph])
  | wordEnds _ _ d | responds _ _ d =>
    subst d
    simp [respondChecksum]

theorem BodyReady.arrow_keeps {c : HostCmd} {s t : State} (h : BodyReady c s) (ha : arrow c s = .ok t) :
    BodyReady c t := by
  cases arrow_cases ha with
  | idle _ d => exact d ▸ h
  | init ph _ => exact absurd ph h.guarded.1
  | detect ph _ => exact absurd ph h.guarded.2
  | body _ _ d =>
    obtain ⟨e, he, hr⟩ := h.engine
    exact ⟨⟨e, (engineFor_of_bind c d.frame.bind).trans he, hr.of_frame d.frame⟩, d.aligned h.aligned, d.ph_ne⟩

theorem BodyReady.runArrows_stopsAtBuffer {c : HostCmd} (count : Nat) {s : State} (h : BodyReady c s) :
    StopsAtBuffer (runArrows c count s) := by
  induction count generalizing s with
  | zero => exact .ok s
  | succ count ih =>
    simp only [runArrows]
    split
    · exact .ok s
    · exact h.arrow_stopsAtBuffer.bind fun u hu => ih (h.arrow_keeps hu)

/-- A run of the body that comes to an end has read every byte that was to come. -/
theorem runArrows_reads {c : HostCmd} {count : Nat} {s t : State} (hs : InBody s)
    (h : runArrows c count s = .ok t) (hidle : t.ph = .idle) {addr : Nat} (hc : ToCome s addr) :
    ∃ b, memRead1 s addr = .ok b := by
  by_contra hu
  have hend : InBody t ∧ ToCome t addr ∧ CommandFrame s t := by
    refine runArrows_induct (P := fun u => InBody u ∧ ToCome u addr ∧ CommandFrame s u) ?_ _ _ _
      ⟨hs, hc, .refl s⟩ h
    rintro u v - ⟨hb, hcu, hf⟩ huv
    cases arrow_cases huv with
    | idle ph _ => exact absurd ph hb.1
    | init ph _ => exact absurd ph hb.2.1
    | detect ph _ => exact absurd ph hb.2.2
    | body _ _ d =>
      obtain ⟨hv, hcv⟩ := d.toCome_of_unreadable hcu fun b h => hu ⟨b, memRead1_congr hf.aw hf.mem addr ▸ h⟩
      exact ⟨hv, hcv, hf.trans d.frame.toCommandFrame⟩
  exact hend.1.1 hidle

/-! ## From the head of a checksum command to its body -/

theorem runArrows_of_arrow {c : HostCmd} {count : Nat} {s t : State} (hp : s.ph ≠ .idle) (h : arrow c s = .ok t) :
    runArrows c (count + 1) s = runArrows c count t := by
  rw [runArrows, if_neg hp, h]
  rfl

/-- A checksum command whose guards do not hold it: its unit is there (R109), and no binding is under way (R85). -/
structure Admitted (c : HostCmd) (s : State) : Prop where
  checksum : c ≠ .init
  unit : c = .crcHw → s.hwCap = true
  notDetecting : c = .crc32c → s.bind ≠ .detecting
  tables : TablesBuilt s
  bind : BindFits s

theorem afterDetectGuard_of_checksum {c : HostCmd} (hc : c ≠ .init) (s : State) :
    afterDetectGuard c s = loadOperands s := by
  cases c with
  | init => exact absurd rfl hc
  | crc32c | crcSw | crcHw => rfl

/-- With the guards behind it a checksum command has an engine, ready to run (R72, R83, R88, R89). -/
theorem Admitted.bodyReady {c : HostCmd} {s : State} (h : Admitted c s) (hd : s.initDone = true)
    (hb : c = .crc32c → s.bind ≠ .uninitialized) : BodyReady c (loadOperands s) := by
  obtain ⟨hc, hu, hn, ht, hhw, -⟩ := h
  refine ⟨?_, by simp, by simp⟩
  have hready (e : Engine) (he : e = .hardware → s.hwCap = true) : EngineReady e (loadOperands s) := ⟨hd, ht, he⟩
  cases c with
  | init => exact absurd rfl hc
  | crcSw => exact ⟨.software, rfl, hready _ nofun⟩
  | crcHw => exact ⟨.hardware, rfl, hready _ fun _ => hu rfl⟩
  | crc32c =>
    cases hs : s.bind with
    | uninitialized => exact absurd hs (hb rfl)
    | detecting => exact absurd hs (hn rfl)
    | boundSoftware => exact ⟨.software, by simp [engineFor, hs], hready _ nofun⟩
    | boundHardware => exact ⟨.hardware, by simp [engineFor, hs], hready _ fun _ => hhw hs⟩

/-- After guard INIT the command comes to its body, by way of guard DETECT if it has one to pass (R88). -/
theorem Admitted.runArrows_afterInitGuard {c : HostCmd} {s : State} (h : Admitted c s) (hd : s.initDone = true)
    (count : Nat) : ∃ k u, runArrows c (count + 2) (afterInitGuard c s) = runArrows c k (loadOperands u) ∧
      CommandFrame s u ∧ BodyReady c (loadOperands u) := by
  obtain ⟨hg, -, hb⟩ | ⟨hg, hb⟩ := afterInitGuard_cases c s
  · refine ⟨count, finishDetect (startDetect (enterPhase .detect s)), ?_, ?_, ?_⟩
    · have hstart : arrow c (enterPhase .detect s) = .ok (startDetect (enterPhase .detect s)) := by
        simp [arrow, detectArrow, hb]
      have hfinish : arrow c (startDetect (enterPhase .detect s)) =
          .ok (loadOperands (finishDetect (startDetect (enterPhase .detect s)))) := by
        simp [arrow, detectArrow, startDetect, afterDetectGuard_of_checksum h.checksum]
      rw [hg, runArrows_of_arrow (by simp) hstart, runArrows_of_arrow (by simp [startDetect]) hfinish]
    · exact ⟨⟨rfl, rfl, rfl, rfl, rfl, rfl, rfl⟩, rfl, rfl⟩
    · refine Admitted.bodyReady ⟨h.checksum, h.unit, fun _ => ?_, h.tables, finishDetect_bindFits _⟩ hd fun _ => ?_
      · cases hc : s.hwCap <;> simp [finishDetect, startDetect, hc]
      · cases hc : s.hwCap <;> simp [finishDetect, startDetect, hc]
  · refine ⟨count + 2, s, ?_, .refl s, h.bodyReady hd fun hc => hb (.inr hc)⟩
    rw [hg, afterDetectGuard_of_checksum h.checksum]

/-- A checksum command runs its body from the loaded operands, with its engine ready. -/
theorem Admitted.runCommand_eq {c : HostCmd} {s : State} (h : Admitted c s) :
    ∃ k u, runCommand c s = runArrows c k (loadOperands u) ∧ CommandFrame s u ∧ BodyReady c (loadOperands u) := by
  obtain ⟨-, hc, hcap⟩ | ⟨-, hd, hg⟩ | ⟨-, -, hg⟩ := beginCommand_cases c s
  · simp [h.unit hc] at hcap
  · rw [runCommand, hg]
    exact h.runArrows_afterInitGuard hd (s.n + 8)
  · obtain ⟨me, mo, w, hbuild⟩ := buildTables_spec (enterPhase .init s)
    have hinit : Admitted c (initialised me mo w (enterPhase .init s)) :=
      ⟨h.checksum, h.unit, h.notDetecting, initialised_tablesBuilt me mo w _, h.bind⟩
    obtain ⟨k, u, hrun, hf, hready⟩ := hinit.runArrows_afterInitGuard rfl (s.n + 7)
    refine ⟨k, u, ?_, ?_, hready⟩
    · have harrow : arrow c (enterPhase .init s) = .ok (afterInitGuard c (initialised me mo w (enterPhase .init s))) :=
        congrArg (Except.map (afterInitGuard c)) hbuild
      rw [runCommand, hg, ← hrun]
      exact runArrows_of_arrow (by simp) harrow
    · exact (enterPhase_frame .init s).toCommandFrame.trans ((initialised_frame ..).trans hf)

/-- A checksum command stops for a byte of the buffer or not at all. -/
theorem Admitted.runCommand_stopsAtBuffer {c : HostCmd} {s : State} (h : Admitted c s) :
    StopsAtBuffer (runCommand c s) := by
  obtain ⟨k, u, hrun, -, hready⟩ := h.runCommand_eq
  exact hrun ▸ hready.runArrows_stopsAtBuffer k

/-- A checksum command that answers has read its whole buffer. -/
theorem Admitted.bufferBytes_of_answer {c : HostCmd} {s t : State} (h : Admitted c s) (ha : runCommand c s = .ok t) :
    ∃ d, bufferBytes s s.a s.n = some d := by
  have hidle := runCommand_idle ha
  obtain ⟨k, u, hrun, hf, -⟩ := h.runCommand_eq
  rw [hrun] at ha
  refine (bufferBytes_isSome_iff ..).2 fun i hi => ?_
  have hc : ToCome (loadOperands u) (s.a + i) := by
    simp only [ToCome, loadOperands_next, loadOperands_len, hf.a, hf.n]
    omega
  obtain ⟨b, hb⟩ := runArrows_reads (by simp [InBody]) ha hidle hc
  exact ⟨b, memRead1_congr hf.aw hf.mem _ ▸ hb⟩

/-- Settles O56: the command answers over readable buffers alone, and stops for a byte of the buffer alone. -/
theorem unreadableBufferIsStuck : Obligations.UnreadableBufferIsStuck := by
  unfold Obligations.UnreadableBufferIsStuck
  intro s i ht hf hnone hi
  have hstuck (c : HostCmd) (h : Admitted c s) :
      exec (instrOf c) s = .fault .unreadableAddress ∨ exec (instrOf c) s = .fault .addressPastTop := by
    rw [exec_instrOf]
    cases hrun : runCommand c s with
    | ok t =>
      obtain ⟨d, hd⟩ := h.bufferBytes_of_answer hrun
      simp [hnone] at hd
    | error f =>
      obtain rfl | rfl := h.runCommand_stopsAtBuffer f hrun
      · exact .inl rfl
      · exact .inr rfl
  obtain rfl | ⟨rfl, hc⟩ | ⟨rfl, hb⟩ := hi
  · exact hstuck .crcSw ⟨nofun, nofun, nofun, ht, hf⟩
  · exact hstuck .crcHw ⟨nofun, fun _ => hc, nofun, ht, hf⟩
  · exact hstuck .crc32c ⟨nofun, nofun, fun _ => hb, ht, hf⟩

end Sys2Proof.Machine
end

section
/-! PROOFS. Command words (30_encoding.md rules R44, R47, R49): the decoder and the encoder undo each other, and which
words the decoder rejects. -/

namespace Sys2Proof

/-! ## The encoder's word is the only one the decoder answers -/

/-- A row of the map fixes either the whole word, and is one operation's, or all of it but `T`, which selects the
operation (R44, R47). -/
theorem opcodeRows_match_encode : ∀ r ∈ opcodeRows,
    (r.mask = 0xFFFFFFFF ∧ encode (r.build .short) = r.pattern ∧ encode (r.build .long) = r.pattern) ∨
    (r.mask = 0xFFFFFEFF ∧ encode (r.build .short) = r.pattern ∧
      encode (r.build .long) = r.pattern ||| 0x100) := by
  decide

/-- What the mask of a row with `T` free leaves out of a word is the `T` bit, which selects the table (R44). -/
theorem word_of_select_match {w p : U32} (h : w &&& 0xFFFFFEFF = p) :
    (tableSelOf w = .short ∧ w = p) ∨ (tableSelOf w = .long ∧ w = p ||| 0x100) := by
  have hsplit : w = (w &&& 0xFFFFFEFF) ||| (w &&& 0x100) := by
    rw [← BitVec.and_or_distrib_left]
    exact (BitVec.and_allOnes (x := w)).symm
  have hbit : w &&& 0x100 = if w.getLsbD 8 then 0x100 else 0 := BitVec.and_twoPow w 8
  rw [h, hbit] at hsplit
  unfold tableSelOf
  cases hT : w.getLsbD 8 <;> rw [hT] at hsplit
  · exact .inl ⟨rfl, by simpa using hsplit⟩
  · exact .inr ⟨rfl, hsplit⟩

/-- A word that a row matches is the encoder's for the operation the row names. -/
theorem encode_of_row {r : OpcodeRow} {w : U32} (hr : r ∈ opcodeRows) (hw : w &&& r.mask = r.pattern) :
    encode (r.build (tableSelOf w)) = w := by
  obtain ⟨hm, hshort, hlong⟩ | ⟨hm, hshort, hlong⟩ := opcodeRows_match_encode r hr
  · have hp : r.pattern = w := by rw [← hw, hm]; exact BitVec.and_allOnes (x := w)
    cases tableSelOf w
    · exact hshort.trans hp
    · exact hlong.trans hp
  · obtain ⟨hsel, hp⟩ | ⟨hsel, hp⟩ := word_of_select_match (hm ▸ hw)
    · rw [hsel, hshort, ← hp]
    · rw [hsel, hlong, ← hp]

/-- An operation the decoder answers is that of a row of the map. -/
theorem row_of_decode {w : U32} {i : Instr} (h : decode w = .ok i) :
    ∃ r ∈ opcodeRows, w &&& r.mask = r.pattern ∧ r.build (tableSelOf w) = i := by
  unfold decode at h
  split at h
  · rename_i r hr
    cases h
    exact ⟨r, List.mem_of_find?_eq_some hr, by simpa using List.find?_some hr, rfl⟩
  · cases h

/-- Every operation's word is well formed and decodes to the operation (R44, R47). -/
theorem encodes (i : Instr) : Laws.Encodes.Statement i := by
  cases i with
  | init => exact Laws.Encodes.init
  | crc32c => exact Laws.Encodes.crc32c
  | crcSw => exact Laws.Encodes.crcSw
  | crcHw => exact Laws.Encodes.crcHw
  | mtimes => exact Laws.Encodes.mtimes
  | msquare => exact Laws.Encodes.msquare
  | zop => exact Laws.Encodes.zop
  | ztab which => exact Laws.Encodes.ztab which
  | shift which => exact Laws.Encodes.shift which
  | combine which => exact Laws.Encodes.combine which
  | btab => exact Laws.Encodes.btab
  | swb => exact Laws.Encodes.swb
  | sww => exact Laws.Encodes.sww
  | sw1 => exact Laws.Encodes.sw1
  | sw3s => exact Laws.Encodes.sw3s
  | sw3l => exact Laws.Encodes.sw3l
  | hwb => exact Laws.Encodes.hwb
  | hww => exact Laws.Encodes.hww
  | hw1 => exact Laws.Encodes.hw1
  | hw3s => exact Laws.Encodes.hw3s
  | hw3l => exact Laws.Encodes.hw3l
  | detect => exact Laws.Encodes.detect

@[simp] theorem decode_encode (i : Instr) : decode (encode i) = .ok i := (encodes i).2

theorem wellFormed_encode (i : Instr) : (Fields.ofWord (encode i)).wellFormed = true := (encodes i).1

theorem decode_eq_ok_iff {w : U32} {i : Instr} : decode w = .ok i ↔ encode i = w := by
  constructor
  · intro h
    obtain ⟨r, hr, hw, rfl⟩ := row_of_decode h
    exact encode_of_row hr hw
  · rintro rfl
    exact decode_encode i

/-- Settles O2: a row matches the encoder's words alone, and each of these decodes. -/
theorem decodeAnswersExactlyTheEncodedWord : Obligations.DecodeAnswersExactlyTheEncodedWord := by
  unfold Obligations.DecodeAnswersExactlyTheEncodedWord
  exact fun _ _ => decode_eq_ok_iff

/-! ## The words of single operations -/

/-- Settles O1: the encoder evaluated on each operation. -/
theorem operationCodesAreThoseOfTheMap : Obligations.OperationCodesAreThoseOfTheMap := by
  unfold Obligations.OperationCodesAreThoseOfTheMap
  decide

/-- Settles O5: each of the seven words is the encoder's. -/
theorem sampleWordsDecode : Obligations.SampleWordsDecode := by
  unfold Obligations.SampleWordsDecode
  simp only [decode_eq_ok_iff]
  decide

/-! ## The words the decoder rejects -/

/-- A word is its fields, put together as the encoder does (R44). -/
theorem append_fields (w : U32) :
    (Fields.ofWord w).reserved ++ ((Fields.ofWord w).t ++ (Fields.ofWord w).op) = w := by
  have hlow : w.extractLsb' 8 1 ++ w.extractLsb' 0 8 = w.extractLsb' 0 9 :=
    BitVec.extractLsb'_append_extractLsb'_eq_extractLsb' rfl
  simp only [Fields.ofWord, hlow]
  exact BitVec.extractLsb'_append_extractLsb' (w := 23) (len := 9)

theorem encode_of_fields {i : Instr} {w : U32} (hres : (Fields.ofWord w).reserved = 0)
    (ht : i.t = (Fields.ofWord w).t) (hop : i.op = (Fields.ofWord w).op) : encode i = w := by
  rw [encode, ← hres, ht, hop, append_fields]

theorem Fields.opAssigned_iff (f : Fields) :
    f.opAssigned = true ↔ f.op ∈ Fields.plainOps ∨ f.op ∈ Fields.selectOps := by
  simp [Fields.opAssigned]

/-- The checks of R44 and R47 together: an assigned code, and a `T` bit only where the code has one. -/
theorem Fields.wellFormed_iff (f : Fields) : f.wellFormed = true ↔
    f.reserved = 0 ∧ (f.op ∈ Fields.plainOps ∧ f.t = 0 ∨ f.op ∈ Fields.selectOps) := by
  simp only [Fields.wellFormed, Fields.tAllowed, Fields.reservedZero, Bool.and_eq_true, Bool.or_eq_true,
    Fields.opAssigned_iff, decide_eq_true_eq, beq_iff_eq]
  tauto

theorem exists_op_of_mem_plainOps {op : BitVec 8} (h : op ∈ Fields.plainOps) :
    ∃ i : Instr, i.op = op ∧ i.t = 0 := by
  have hrow : ∀ op ∈ Fields.plainOps, ∃ r ∈ opcodeRows, (r.build .short).op = op ∧ (r.build .short).t = 0 := by
    decide
  obtain ⟨r, -, hr⟩ := hrow op h
  exact ⟨_, hr⟩

/-- A code with a `T` bit names one operation for each table (R44, R47). -/
theorem exists_op_of_mem_selectOps {op : BitVec 8} (h : op ∈ Fields.selectOps) :
    ∃ i : TableSel → Instr, ∀ which, (i which).op = op ∧ (i which).t = tBitOf which := by
  simp only [Fields.selectOps, List.mem_cons, List.not_mem_nil, or_false] at h
  rcases h with rfl | rfl | rfl
  · exact ⟨.ztab, fun _ => ⟨rfl, rfl⟩⟩
  · exact ⟨.shift, fun _ => ⟨rfl, rfl⟩⟩
  · exact ⟨.combine, fun _ => ⟨rfl, rfl⟩⟩

theorem exists_tBitOf_eq (t : BitVec 1) : ∃ which, tBitOf which = t := by
  obtain rfl | rfl := BitVec.eq_zero_or_eq_one t
  · exact ⟨.short, rfl⟩
  · exact ⟨.long, rfl⟩

/-- The decoder answers exactly the words that pass the checks. -/
theorem exists_decode_iff_wellFormed (w : U32) :
    (∃ i, decode w = .ok i) ↔ (Fields.ofWord w).wellFormed = true := by
  simp only [decode_eq_ok_iff]
  constructor
  · rintro ⟨i, rfl⟩
    exact wellFormed_encode i
  · intro h
    obtain ⟨hres, ⟨hop, ht⟩ | hop⟩ := (Fields.wellFormed_iff _).1 h
    · obtain ⟨i, hi, hti⟩ := exists_op_of_mem_plainOps hop
      exact ⟨i, encode_of_fields hres (hti.trans ht.symm) hi⟩
    · obtain ⟨i, hi⟩ := exists_op_of_mem_selectOps hop
      obtain ⟨which, ht⟩ := exists_tBitOf_eq (Fields.ofWord w).t
      exact ⟨i which, encode_of_fields hres ((hi which).2.trans ht) (hi which).1⟩

theorem rejectReason_of_decode {w : U32} {e : DecodeError} (h : decode w = .error e) : rejectReason w = e := by
  unfold decode at h
  split at h
  · cases h
  · cases h
    rfl

/-- A word that fails a check is rejected with the name of that check. -/
theorem decode_eq_error_iff {w : U32} {e : DecodeError} :
    decode w = .error e ↔ ¬ (Fields.ofWord w).wellFormed = true ∧ rejectReason w = e := by
  rw [← exists_decode_iff_wellFormed]
  cases hd : decode w with
  | ok i => simp
  | error e' => simp [rejectReason_of_decode hd]

theorem rejectReason_eq_reservedBits_iff (w : U32) :
    rejectReason w = .reservedBits ↔ (Fields.ofWord w).reserved ≠ 0 := by
  unfold rejectReason Fields.reservedZero
  split
  · split <;> simp_all
  · simp_all

theorem rejectReason_eq_tBit_iff (w : U32) :
    rejectReason w = .tBit ↔ (Fields.ofWord w).reserved = 0 ∧ (Fields.ofWord w).opAssigned = true := by
  unfold rejectReason Fields.reservedZero
  split
  · split <;> simp_all
  · simp_all

theorem ofWord_t_eq_zero_iff (w : U32) : (Fields.ofWord w).t = 0 ↔ w.getLsbD 8 = false := by
  simp [Fields.ofWord, BitVec.eq_of_getLsbD_eq_iff]

theorem not_mem_selectOps_of_mem_plainOps : ∀ op ∈ Fields.plainOps, op ∉ Fields.selectOps := by decide

/-- Settles O3: the checks decide whether a word decodes, and `rejectReason` names the one that fails. -/
theorem decodeRejectsExactlyIllFormedWords : Obligations.DecodeRejectsExactlyIllFormedWords := by
  unfold Obligations.DecodeRejectsExactlyIllFormedWords
  intro w
  have hwf := Fields.wellFormed_iff (Fields.ofWord w)
  have hdisjoint := not_mem_selectOps_of_mem_plainOps (Fields.ofWord w).op
  refine ⟨exists_decode_iff_wellFormed w, ?_, ?_⟩
  · rw [decode_eq_error_iff, rejectReason_eq_reservedBits_iff, hwf]
    exact ⟨fun h => h.2, fun h => ⟨fun hf => h hf.1, h⟩⟩
  · rw [decode_eq_error_iff, rejectReason_eq_tBit_iff, hwf, Fields.opAssigned_iff, ofWord_t_eq_zero_iff]
    constructor
    · rintro ⟨hnot, hres, hplain | hselect⟩
      · exact ⟨hres, Bool.not_eq_false _ ▸ fun hT => hnot ⟨hres, .inl ⟨hplain, hT⟩⟩, hplain⟩
      · exact absurd ⟨hres, .inr hselect⟩ hnot
    · rintro ⟨hres, hT, hplain⟩
      refine ⟨?_, hres, .inl hplain⟩
      rintro ⟨-, ⟨-, hT'⟩ | hselect⟩
      · exact Bool.false_ne_true (hT'.symm.trans hT)
      · exact hdisjoint hplain hselect

end Sys2Proof
end

section
/-! PROOFS. The host's side of the encoding: the words the host port admits (30_encoding.md rule R48), the response
every command ends in (rule R46), and the register writes of a program line (rules R50, R51). -/

namespace Sys2Proof.Machine

/-! ## The words the host port admits -/

theorem hostCmdOf_eq_some_iff {i : Instr} {c : HostCmd} : hostCmdOf i = some c ↔ i = instrOf c := by
  cases i <;> cases c <;> simp [hostCmdOf, instrOf]

theorem hostWord_eq_some_iff {w : U32} {c : HostCmd} : hostWord w = some c ↔ encode (instrOf c) = w := by
  constructor
  · intro h
    unfold hostWord at h
    split at h
    · rename_i i hd
      rw [← hostCmdOf_eq_some_iff.1 h]
      exact decode_eq_ok_iff.1 hd
    · cases h
  · rintro rfl
    exact hostWord_encode c

/-- R48: the command's code in [7:0] and zeros above it make up its word. -/
theorem encode_instrOf_eq_iff {w : U32} {c : HostCmd} :
    encode (instrOf c) = w ↔ w.extractLsb' 8 24 = 0 ∧ w.extractLsb' 0 8 = (instrOf c).op := by
  constructor
  · rintro rfl
    cases c <;> decide
  · rintro ⟨hhigh, hlow⟩
    have hw : w.extractLsb' 8 24 ++ w.extractLsb' 0 8 = w :=
      BitVec.extractLsb'_append_extractLsb' (w := 24) (len := 8)
    rw [← hw, hhigh, hlow]
    cases c <;> rfl

theorem hostWord_eq_some_iff_bits {w : U32} {c : HostCmd} :
    hostWord w = some c ↔ w.extractLsb' 8 24 = 0 ∧ w.extractLsb' 0 8 = (instrOf c).op :=
  hostWord_eq_some_iff.trans encode_instrOf_eq_iff

theorem instrOf_op_mem (c : HostCmd) : (instrOf c).op ∈ ([0x01, 0x02, 0x03, 0x04] : List (BitVec 8)) := by
  cases c <;> decide

/-- Any other word than R48's four is answered ILLEGAL in `IDLE`, and nothing else changes (R108). -/
theorem step_of_illegal {s : State} (hs : s.micro.slot = none) (hp : s.ph = .idle) (hq : s.cwPending = true)
    (hw : hostWord s.cw = none) :
    step s = .next { s with cwPending := false, resValid := true, st := .illegal, res := 0 } := by
  simp [step, fetch, hs, hp, hq, hw, respondIllegal, respond, takeCommand]

/-- Settles O4: `hostWord` reads the four words by their bits. -/
theorem hostPortAdmitsFourWords : Obligations.HostPortAdmitsFourWords := by
  unfold Obligations.HostPortAdmitsFourWords
  intro s hs hp hq
  have hrun (c : HostCmd) (h : s.cw.extractLsb' 8 24 = 0 ∧ s.cw.extractLsb' 0 8 = (instrOf c).op) :
      step s = exec (instrOf c) (takeCommand s) :=
    step_of_pending hs hp hq (hostWord_eq_some_iff_bits.2 h)
  refine ⟨hrun .init, hrun .crc32c, hrun .crcSw, hrun .crcHw, fun hbad => ?_⟩
  refine step_of_illegal hs hp hq (Option.eq_none_iff_forall_ne_some.2 fun c hc => hbad ?_)
  obtain ⟨hhigh, hlow⟩ := hostWord_eq_some_iff_bits.1 hc
  exact ⟨hhigh, hlow ▸ instrOf_op_mem c⟩

/-! ## Every command that answers has responded -/

/-- Where the engine is back in `IDLE`, it is so by a response OK (R46, R103). -/
def IdleByOk (t : State) : Prop := t.ph = .idle → t.resValid = true ∧ t.st = .ok

theorem respond_ok_idleByOk (r : U32) (s : State) : IdleByOk (respond .ok r s) := fun _ => ⟨rfl, rfl⟩

theorem afterDetectGuard_idleByOk (c : HostCmd) (s : State) : IdleByOk (afterDetectGuard c s) := by
  cases c with
  | init => exact respond_ok_idleByOk 0 s
  | crc32c | crcSw | crcHw => exact nofun

theorem afterInitGuard_idleByOk (c : HostCmd) (s : State) : IdleByOk (afterInitGuard c s) := by
  obtain ⟨h, -⟩ | ⟨h, -⟩ := afterInitGuard_cases c s
  · exact h ▸ nofun
  · exact h ▸ afterDetectGuard_idleByOk c s

theorem detectArrow_idleByOk {c : HostCmd} {s : State} (hp : s.ph ≠ .idle) : IdleByOk (detectArrow c s) := by
  unfold detectArrow
  split
  · exact fun h => absurd h hp
  all_goals exact afterDetectGuard_idleByOk c _

theorem BodyArrow.idleByOk {e : Engine} {s t : State} (h : BodyArrow e s t) : IdleByOk t := by
  cases h with
  | prologue ph _ _ m | long ph _ _ m | short ph _ _ m | word ph _ _ m | tail ph _ _ m =>
    exact fun h => by simp [m.ph, ph] at h
  | prologueEnds _ _ d | longEnds _ _ d | shortEnds _ _ d | wordEnds _ _ d => exact d ▸ nofun
  | responds _ _ d => exact d ▸ respond_ok_idleByOk _ s

/-- The arrows of a command in progress come back to `IDLE` by a response OK alone (R24). -/
theorem arrow_idleByOk {c : HostCmd} {s t : State} (hp : s.ph ≠ .idle) (h : arrow c s = .ok t) : IdleByOk t := by
  cases arrow_cases h with
  | idle ph _ => exact absurd ph hp
  | init _ d =>
    obtain ⟨me, mo, w, rfl⟩ := d
    exact afterInitGuard_idleByOk c _
  | detect _ d => exact d ▸ detectArrow_idleByOk hp
  | body e _ d => exact d.idleByOk

theorem runArrows_idleByOk {c : HostCmd} {count : Nat} {s t : State} (hs : IdleByOk s)
    (h : runArrows c count s = .ok t) : IdleByOk t :=
  runArrows_induct (fun _ _ hp _ ha => arrow_idleByOk hp ha) _ _ _ hs h

/-- A command that answers was refused at its head, CRC_HW without the unit, or ends in a response OK (R103, R109). -/
theorem runCommand_response {c : HostCmd} {s t : State} (h : runCommand c s = .ok t) :
    (t = respond .unavailable 0 s ∧ c = .crcHw ∧ s.hwCap = false) ∨ (t.resValid = true ∧ t.st = .ok) := by
  have hi := runCommand_idle h
  unfold runCommand at h
  obtain ⟨hb, hc⟩ | ⟨-, -, hb⟩ | ⟨-, -, hb⟩ := beginCommand_cases c s
  · rw [hb, runArrows_of_idle _ rfl] at h
    cases h
    exact .inl ⟨rfl, hc⟩
  · exact .inr (runArrows_idleByOk (hb ▸ afterInitGuard_idleByOk c s) h hi)
  · exact .inr (runArrows_idleByOk (hb ▸ nofun) h hi)

/-- Settles O55: the run of the command ends in `IDLE`, where only a response leads. -/
theorem everyCommandResponds : Obligations.EveryCommandResponds := by
  unfold Obligations.EveryCommandResponds
  intro c s t h
  have hrun := exec_instrOf_eq_next.1 h
  refine ⟨runCommand_idle hrun, ?_⟩
  obtain ⟨rfl, hc⟩ | ⟨hv, hst⟩ := runCommand_response hrun
  · exact ⟨rfl, .inr ⟨rfl, rfl, hc⟩⟩
  · exact ⟨hv, .inl hst⟩

/-! ## Program lines -/

/-- R50: the four register writes of a checksum line, in `IDLE` and with `uAW` operands. -/
theorem issueChecksum_lit {s : State} {addr len : Nat} (hm : hostMayMove s = true) (ha : addr < 2 ^ s.aw)
    (hl : len < 2 ^ s.aw) (code v : U32) :
    issueChecksum code addr len (.lit v) s =
      some { s with a := addr, n := len, seed := v, cw := code, cwPending := true } := by
  obtain ⟨hp, hq⟩ := (hostMayMove_iff s).1 hm
  simp [issueChecksum, lineSeed, hostWrite, hostMayMove, hp, hq, Nat.mod_eq_of_lt ha, Nat.mod_eq_of_lt hl]

/-- R50: a seed `RES` is the value of `RES` when the line starts, once there is one. -/
theorem issueChecksum_res {s : State} (hm : hostMayMove s = true) (hv : s.resValid = true) (code : U32)
    (addr len : Nat) : issueChecksum code addr len .res s = issueChecksum code addr len (.lit s.res) s := by
  have hseed : lineSeed s .res = lineSeed s (.lit s.res) := by simp [lineSeed, hostRead, hm, hv]
  simp only [issueChecksum, hseed]

/-- Settles O22: the lines are `issueChecksum` with the operation's code, and the pseudo-instructions expand to them. -/
theorem programLinesWriteTheRegisters : Obligations.ProgramLinesWriteTheRegisters := by
  unfold Obligations.ProgramLinesWriteTheRegisters
  intro s hm
  refine ⟨?_, fun addr len v ha hl => ⟨?_, ?_, ?_, fun hv => ⟨?_, ?_, ?_⟩, rfl, rfl⟩⟩
  · exact if_pos hm
  · exact issueChecksum_lit hm ha hl ..
  · exact issueChecksum_lit hm ha hl ..
  · exact issueChecksum_lit hm ha hl ..
  · exact issueChecksum_res hm hv ..
  · exact issueChecksum_res hm hv ..
  · exact issueChecksum_res hm hv ..

end Sys2Proof.Machine
end

section
/-! PROOFS. MTIMES and MSQUARE on the current matrix (40_gf2_matrix.md rules R53 and R54): the product bit by bit, its
corner cases, and the squares of the zero matrix and of the identity. -/

namespace Sys2Proof.Machine

/-! ## The product by the bits of the vector -/

theorem selectedWord_getLsbD (m : Matrix) (v : U32) (i : Fin 32) (j : Nat) :
    (selectedWord m v i).getLsbD j = (v.getLsbD i && m[i].getLsbD j) := by
  unfold selectedWord
  cases v.getLsbD i <;> simp

theorem selectedWord_oneBit (m : Matrix) (i k : Fin 32) :
    selectedWord m ((1 : U32) <<< i.val) k = if i = k then m[k] else 0#32 := by
  have hbit : ((1 : U32) <<< i.val).getLsbD k = decide (i = k) := by
    have hk := k.isLt
    rw [BitVec.getLsbD_shiftLeft, BitVec.ofNat_eq_ofNat, BitVec.getLsbD_one, Bool.eq_iff_iff]
    simp only [Bool.and_eq_true, Bool.not_eq_true', decide_eq_true_eq, decide_eq_false_iff_not, Fin.ext_iff]
    omega
  rw [selectedWord, hbit]
  simp

theorem selectedWord_allOnes (m : Matrix) (i : Fin 32) : selectedWord m (BitVec.allOnes 32) i = m[i] := by
  rw [selectedWord, BitVec.getLsbD_allOnes, decide_eq_true i.isLt, if_pos rfl]

theorem mtimes_getLsbD (m : Matrix) (v : U32) (j : Nat) :
    (mtimes m v).getLsbD j =
      (List.finRange 32).foldl (fun sum (i : Fin 32) => xor sum (v.getLsbD i && m[i].getLsbD j)) false := by
  simp only [← selectedWord_getLsbD]
  rw [mtimes, ← BitVec.getLsbD_zero (w := 32) (i := j)]
  exact (List.foldl_hom (fun x : U32 => x.getLsbD j) fun _ _ => BitVec.getLsbD_xor.symm).symm

/-- A vector with one bit set selects that bit's word. -/
theorem mtimes_oneBit (m : Matrix) (i : Fin 32) : mtimes m ((1 : U32) <<< i.val) = m[i] := by
  have hfold : ∀ (l : List (Fin 32)) (x : U32), l.Nodup →
      l.foldl (fun sum k => sum ^^^ if i = k then m[k] else 0#32) x = x ^^^ if i ∈ l then m[i] else 0#32 := by
    intro l
    induction l with
    | nil => simp
    | cons k l ih =>
      intro x hl
      obtain ⟨hk, hl⟩ := List.nodup_cons.1 hl
      rw [List.foldl_cons, ih _ hl]
      by_cases h : i = k
      · subst h; simp [hk]
      · simp [h]
  simp only [mtimes, selectedWord_oneBit]
  rw [hfold _ _ (List.nodup_finRange 32)]
  simp

/-- A vector with every bit set selects every word. -/
theorem mtimes_allOnes (m : Matrix) :
    mtimes m (BitVec.allOnes 32) = (List.finRange 32).foldl (fun sum i => sum ^^^ m[i]) 0 := by
  simp only [mtimes, selectedWord_allOnes]

/-! ## The square by its words -/

theorem msquare_getElem (m : Matrix) (n : Fin 32) : (msquare m)[n] = mtimes m m[n] :=
  tabulate_getElem _ n.val n.isLt

/-- A matrix whose map fixes each of its words is its own square. -/
theorem msquare_eq_self {m : Matrix} (h : ∀ n : Fin 32, mtimes m m[n] = m[n]) : msquare m = m :=
  Vector.ext fun n hn => (msquare_getElem m ⟨n, hn⟩).trans (h ⟨n, hn⟩)

theorem msquare_eq_self_of_zero {m : Matrix} (h : ∀ n : Fin 32, m[n] = 0) : msquare m = m :=
  msquare_eq_self fun n => by rw [h n]; exact mtimes_zero m

theorem msquare_eq_self_of_identity {m : Matrix} (h : ∀ n : Fin 32, m[n] = (1 : U32) <<< n.val) : msquare m = m :=
  msquare_eq_self fun n => by conv_lhs => rw [h n, mtimes_oneBit]

/-! ## The two operations where the current matrix is written -/

theorem exec_mtimes_of_currentMatrix {s : State} {m : Matrix} (h : currentMatrix s = .ok m) :
    exec .mtimes s = .next (setOut (mtimes m s.micro.vec) s) := by
  change execMtimes s = _
  rw [execMtimes, h, except_ok_bind, toOutcome_ok]

/-- The square goes into the scratch matrix that does not hold the operand. -/
theorem exec_msquare_of_currentMatrix {s : State} {m : Matrix} (h : currentMatrix s = .ok m) :
    exec .msquare s =
      .next (match s.scratch with | .odd => setEven (msquare m) s | .even => setOdd (msquare m) s) := by
  change execMsquare s = _
  rw [execMsquare, squareScratch, h, except_ok_bind]
  cases s.scratch <;> rfl

/-- Settles O23: `mtimes` is the fold of the selected words, read bit by bit and at the corner vectors. -/
theorem mtimesXorsTheSelectedWords : Obligations.MtimesXorsTheSelectedWords := by
  unfold Obligations.MtimesXorsTheSelectedWords
  intro s m h
  exact ⟨exec_mtimes_of_currentMatrix h, fun v j => mtimes_getLsbD m v j, mtimes_zero m, mtimes_oneBit m,
    mtimes_xor m, mtimes_allOnes m⟩

/-- Settles O24: the matrix written is `msquare`, and by linearity its map is the matrix's map taken twice. -/
theorem msquareIsTheMapAppliedTwice : Obligations.MsquareIsTheMapAppliedTwice := by
  unfold Obligations.MsquareIsTheMapAppliedTwice
  intro s m h
  have hexec := exec_msquare_of_currentMatrix h
  refine ⟨msquare m, fun hodd => ?_, fun heven => ?_, msquare_getElem m, mtimes_msquare m, msquare_eq_self_of_zero,
    msquare_eq_self_of_identity⟩
  · rw [hexec, hodd, setEven]
  · rw [hexec, heven, setOdd]

end Sys2Proof.Machine
end

section
/-! PROOFS. The zero-shift operator and its tables (41_zero_shift.md): ZBASE, where ZOP leaves its operator and what it
stands for, ZTAB entry by entry, and SHIFT as the product by the operator whose table it reads. -/

namespace Sys2Proof.Machine

/-! ## ZOP -/

/-- The scratch matrix that `where` does not name (R56). -/
def Scratch.other : Scratch → Scratch
  | .odd => .even
  | .even => .odd

/-- A squaring goes to the other scratch matrix. -/
theorem squareScratch_scratch {s t : State} (h : squareScratch s = .ok t) : t.scratch = s.scratch.other := by
  unfold squareScratch at h
  obtain ⟨m, -, hm⟩ := bind_eq_ok.1 h
  cases hs : s.scratch <;> rw [hs] at hm <;> cases hm <;> rfl

theorem squareTimes_scratch {count : Nat} {s t : State} (h : squareTimes count s = .ok t) :
    t.scratch = Scratch.other^[count] s.scratch := by
  induction count generalizing s with
  | zero => cases h; rfl
  | succ count ih =>
    obtain ⟨u, hu, ht⟩ := except_bind_eq_ok.1 h
    rw [ih ht, squareScratch_scratch hu, Function.iterate_succ_apply]

/-- R56: ZOP starts from `MODD` and changes sides `k + 3` times. -/
theorem zop_scratch {len : Nat} {s t : State} (h : zop len s = .ok t) :
    t.scratch = Scratch.other^[Nat.log2 len + 3] .odd :=
  squareTimes_scratch h

/-- R56: the operator ZOP leaves advances by the largest power of two of zero bytes that is at most `len`. -/
theorem mtimes_of_zop {len : Nat} {s t : State} {m : Matrix} (h : zop len s = .ok t) (hm : currentMatrix t = .ok m)
    (v : U32) : mtimes m v = zn v (8 * 2 ^ Nat.log2 len) := by
  obtain ⟨u, hu, hsq, -⟩ := zop_spec len s
  obtain rfl : t = u := Except.ok.inj (h.symm.trans hu)
  obtain rfl : m = squared zbase (Nat.log2 len + 3) := Except.ok.inj (hm.symm.trans hsq)
  rw [mtimes_squared_zbase, Nat.pow_add, Nat.mul_comm]

theorem exec_zop_of_len_ne_zero {s : State} (h : s.micro.len ≠ 0) : exec .zop s = toOutcome (zop s.micro.len s) :=
  if_neg h

/-! ## ZTAB -/

theorem exec_ztab_of_currentMatrix {s : State} {m : Matrix} (which : TableSel) (h : currentMatrix s = .ok m) :
    exec (.ztab which) s = .next (setShiftTable which (ztabOf m) s) :=
  congrArg toOutcome (ztab_of_currentMatrix which h)

/-- R57: the entry for byte `n` at position `p` is the operator's action on that byte there. -/
theorem tableAt_ztabOf (m : Matrix) (p : Fin 4) (n : U8) :
    tableAt (ztabOf m) p n = mtimes m (n.setWidth 32 <<< (8 * p.val)) := by
  rw [ztabOf, tableAt_tabulate, BitVec.ofNat_toNat]

/-- One bit of the byte at position `p` is one bit of the word. -/
theorem oneBit_at_position (p : Fin 4) (i : Fin 8) :
    ((1 : U8) <<< i.val).setWidth 32 <<< (8 * p.val) = (1 : U32) <<< (8 * p.val + i.val) := by
  revert p i
  decide

/-! ## SHIFT -/

/-- R58: SHIFT writes its result and nothing else. -/
theorem exec_shift_of_shiftTable {s : State} {which : TableSel} {tab : ShiftTable} (hd : s.initDone = true)
    (ht : shiftTable s which = some tab) : exec (.shift which) s = .next (setOut (shiftBy tab s.micro.vec) s) := by
  change execShift which s = _
  rw [execShift, readShiftTable_eq_ok.2 ⟨hd, ht⟩, except_ok_bind, toOutcome_ok]

/-- The byte at position `p` of a word, put back at its place, has the word's bits there and no others. -/
theorem byteAt_in_place_getLsbD (c : U32) (p j : Nat) :
    ((byteAt c p).setWidth 32 <<< (8 * p)).getLsbD j = (decide (j / 8 = p) && c.getLsbD j) := by
  rw [byteAt, BitVec.getLsbD_shiftLeft, BitVec.getLsbD_setWidth, BitVec.getLsbD_extractLsb']
  by_cases hp : j / 8 = p
  · have hsplit : 8 * p + (j - 8 * p) = j := by omega
    by_cases hj : j < 32
    · have hpos : ¬ j < 8 * p ∧ j - 8 * p < 32 ∧ j - 8 * p < 8 := by omega
      simp [hp, hj, hpos, hsplit]
    · simp [hj, BitVec.getLsbD_of_ge c j (by omega)]
  · have hout : j < 8 * p ∨ ¬ j - 8 * p < 8 := by omega
    obtain h | h := hout <;> simp [hp, h]

/-- A word is the XOR of its four bytes, each at its place. -/
theorem xor_bytes_in_place (c : U32) :
    (byteAt c 0).setWidth 32 <<< (8 * 0) ^^^ (byteAt c 1).setWidth 32 <<< (8 * 1) ^^^
      (byteAt c 2).setWidth 32 <<< (8 * 2) ^^^ (byteAt c 3).setWidth 32 <<< (8 * 3) = c := by
  refine BitVec.eq_of_getLsbD_eq fun j hj => ?_
  simp only [BitVec.getLsbD_xor, byteAt_in_place_getLsbD]
  have hbyte : j / 8 = 0 ∨ j / 8 = 1 ∨ j / 8 = 2 ∨ j / 8 = 3 := by omega
  obtain h | h | h | h := hbyte <;> simp [h]

/-- R59: by linearity the four lookups in an operator's table are the product by the operator. -/
theorem shiftBy_ztabOf (m : Matrix) (c : U32) : shiftBy (ztabOf m) c = mtimes m c := by
  simp only [shiftBy, tableAt_ztabOf]
  rw [← mtimes_xor, ← mtimes_xor, ← mtimes_xor]
  exact congrArg (mtimes m) (xor_bytes_in_place c)

theorem pow_log2_blockOf (which : TableSel) : 2 ^ Nat.log2 (blockOf which) = blockOf which := by
  cases which <;> decide

/-- R59: SHIFT by a fixed table advances by the block's zero bytes. -/
theorem shiftBy_closedShiftTable (which : TableSel) (c : U32) :
    shiftBy (closedShiftTable which) c = zn c (8 * blockOf which) := by
  rw [← ztabOf_zop, shiftBy_ztabOf, mtimes_squared_zbase, Nat.pow_add, pow_log2_blockOf, Nat.mul_comm]

/-- R16: an initialised engine holds the fixed table. -/
theorem TablesBuilt.shiftTable_eq {s : State} (h : TablesBuilt s) (hd : s.initDone = true) (which : TableSel) :
    shiftTable s which = some (closedShiftTable which) := by
  obtain ⟨-, hs, hl⟩ := h hd
  cases which
  · exact hs
  · exact hl

/-! ## The obligations -/

/-- Settles O26: the operator is `ZBASE` squared `k + 3` times, and `MEVEN` and `MODD` take turns. -/
theorem zopIsTheZeroByteOperator : Obligations.ZopIsTheZeroByteOperator := by
  unfold Obligations.ZopIsTheZeroByteOperator
  intro s k hlow hhigh
  have hne : s.micro.len ≠ 0 := (Nat.lt_of_lt_of_le (Nat.two_pow_pos k) hlow).ne'
  have hlog : Nat.log2 s.micro.len = k := (Nat.log2_eq_iff hne).2 ⟨hlow, hhigh⟩
  obtain ⟨t, ht, hm, hf⟩ := zop_spec s.micro.len s
  have hside := zop_scratch ht
  rw [hlog] at hside
  refine ⟨t, _, ?_, hm, fun v => ?_, ?_, ?_, hf⟩
  · rw [exec_zop_of_len_ne_zero hne, ht, toOutcome_ok]
  · rw [mtimes_of_zop ht hm, hlog]
  · rintro rfl; exact hside
  · rintro rfl; exact hside

/-- Settles O30: the table's lookups are the operator's product, and the operator's product is the zero bytes. -/
theorem operatorsTablesAndShiftAgree : Obligations.OperatorsTablesAndShiftAgree := by
  unfold Obligations.OperatorsTablesAndShiftAgree
  refine ⟨fun s t which m ht hm => ?_, fun s which hd hb => ?_⟩
  · have hop : ∀ v, mtimes m v = zn v (8 * blockOf which) := fun v => by
      rw [mtimes_of_zop ht hm, pow_log2_blockOf]
    exact ⟨fun c => ⟨hop c, by rw [shiftBy_ztabOf, hop]⟩, fun p n => by rw [tableAt_ztabOf, hop]⟩
  · rw [exec_shift_of_shiftTable hd (hb.shiftTable_eq hd which), shiftBy_closedShiftTable]

/-- Settles O25: the words are those of the definition, and the map is `mtimes_zbase`. -/
theorem baseOperatorIsOneZeroBit : Obligations.BaseOperatorIsOneZeroBit := by
  unfold Obligations.BaseOperatorIsOneZeroBit
  refine ⟨by decide, fun n hn => ?_, mtimes_zbase⟩
  exact (tabulate_getElem _ n.val n.isLt).trans (if_neg hn)

/-- Settles O28: the table is `ztabOf`, whose entries are products of the operator with one byte at its place. -/
theorem ztabRecordsTheOperatorByteByByte : Obligations.ZtabRecordsTheOperatorByteByByte := by
  unfold Obligations.ZtabRecordsTheOperatorByteByByte
  intro s m which h
  refine ⟨ztabOf m, ?_, tableAt_ztabOf m, fun p => ?_, fun p i => ?_⟩
  · rw [exec_ztab_of_currentMatrix which h]
    cases which <;> rfl
  · rw [tableAt_ztabOf]
    simp [mtimes_zero]
  · rw [tableAt_ztabOf, oneBit_at_position]
    exact mtimes_oneBit m ⟨8 * p.val + i.val, by omega⟩

/-- Settles O27: `execZop` tests `len` before it runs the operation. -/
theorem zopOfZeroBytesIsRefused : Obligations.ZopOfZeroBytesIsRefused := by
  unfold Obligations.ZopOfZeroBytesIsRefused
  exact fun _ h => if_pos h

/-- Settles O29: byte `j` of the operand indexes row `j`. -/
theorem shiftIsFourLookups : Obligations.ShiftIsFourLookups := by
  unfold Obligations.ShiftIsFourLookups
  exact fun _ _ _ hd ht => exec_shift_of_shiftTable hd ht

end Sys2Proof.Machine
end

section
/-! PROOFS. The byte table (42_byte_table.md): what BTAB's table holds entry by entry, in closed form and as the fold
of the row before. -/

namespace Sys2Proof.Machine

theorem exec_btab (s : State) : exec .btab s = .next (setByteTable byteTable s) := rfl

theorem byteRow0_getElem (b : U8) : byteRow0[b.toNat]'(b.isLt) = zn (b.setWidth 32) 8 := by
  rw [byteRow0, tabulate_getElem, BitVec.ofNat_toNat]

/-- R61: entry `b` of row `k` is row 0's entry folded `k` times. -/
theorem tableAt_byteTable_eq_foldTimes (k : Fin 8) (b : U8) :
    tableAt byteTable k b = foldTimes (zn (b.setWidth 32) 8) k.val := by
  rw [byteTable, tableAt_tabulate, ← byteRow0_getElem]
  rfl

/-- R62: the entry is byte `b` followed by `k` zero bytes. -/
theorem tableAt_byteTable (k : Fin 8) (b : U8) : tableAt byteTable k b = zn (b.setWidth 32) (8 * (k.val + 1)) := by
  rw [tableAt_byteTable_eq_foldTimes, foldTimes_eq_zn, ← zn_add, Nat.mul_succ, Nat.add_comm]

/-- R61: a folding reads row 0 of the built table. -/
theorem foldByte_eq_tableAt_byteTable (c : U32) :
    foldByte c = tableAt byteTable 0 (c.extractLsb' 0 8) ^^^ (c >>> 8) := by
  rw [tableAt_byteTable_eq_foldTimes, foldByte, byteRow0_getElem]
  rfl

/-- R61: the second loop makes each row from the row before it. -/
theorem tableAt_byteTable_succ (k : Fin 7) (b : U8) :
    tableAt byteTable k.succ b = foldByte (tableAt byteTable k.castSucc b) := by
  rw [tableAt_byteTable_eq_foldTimes, tableAt_byteTable_eq_foldTimes, Fin.val_succ, Fin.val_castSucc, foldTimes]

/-- Settles O31: the entries are row 0's folded, and each folding is one more zero byte. -/
theorem btabIsTheClosedForm : Obligations.BtabIsTheClosedForm := by
  unfold Obligations.BtabIsTheClosedForm
  refine fun s => ⟨byteTable, exec_btab s, tableAt_byteTable, fun k b => ?_⟩
  rw [tableAt_byteTable_succ, foldByte_eq_tableAt_byteTable]

end Sys2Proof.Machine
end

section
/-! PROOFS. The step primitives of both engines (43_software_engine.md rules R64 to R66, 44_hardware_engine.md rules R77
to R79) as LFSR steps, and the algebra of the byte oracle (rule R68): the software's lookups and the hardware's
bit-serial steps are the oracle's byte steps. -/

namespace Sys2Proof.Machine

/-! ## The byte step -/

/-- R64, R77: looking the byte up is eight LFSR steps after XORing it. -/
theorem swb_byteTable (a : U32) (b : U8) : swb byteTable a b = zn (a ^^^ b.setWidth 32) 8 := by
  have hshift : (a ^^^ b.setWidth 32) >>> 8 = a >>> 8 := by
    refine BitVec.eq_of_getLsbD_eq fun j _ => ?_
    simp
  rw [← foldByte_eq_zn, foldByte_eq_tableAt_byteTable, hshift]
  rfl

/-- R79: the byte steps of the two engines are one function. -/
theorem hwb_eq_swb (a : U32) (b : U8) : hwb a b = swb byteTable a b := (swb_byteTable a b).symm

/-! ## The byte oracle is linear in the accumulator -/

theorem raw_append (a : U32) (d d' : List U8) : raw a (d ++ d') = raw (raw a d) d' := by
  induction d generalizing a with
  | nil => rfl
  | cons b d ih => exact ih _

theorem raw_eq_foldl (a : U32) (d : List U8) : raw a d = d.foldl (swb byteTable) a := by
  induction d generalizing a with
  | nil => rfl
  | cons b d ih => exact ih _

/-- R68: the accumulator passes through the oracle as through zero bytes, and the bytes add their own part. -/
theorem raw_eq_zn_xor (a : U32) (d : List U8) : raw a d = zn a (8 * d.length) ^^^ raw 0 d := by
  induction d generalizing a with
  | nil => simp [raw, zn]
  | cons b d ih =>
    have hstep : zn (swb byteTable a b) (8 * d.length) =
        zn a (8 * (b :: d).length) ^^^ zn (swb byteTable 0 b) (8 * d.length) := by
      rw [swb_byteTable, swb_byteTable, zn_xor, zn_xor, ← zn_add, List.length_cons, Nat.mul_succ, Nat.add_comm]
      simp
    rw [raw, raw, ih, ih (swb byteTable 0 b), hstep, BitVec.xor_assoc]

/-- R69: three stretches taken by three lanes, the later ones from zero, recombine by zero shifts. -/
theorem raw_threeLanes (a : U32) (d0 d1 d2 : List U8) :
    raw a (d0 ++ d1 ++ d2) =
      zn (zn (raw a d0) (8 * d1.length) ^^^ raw 0 d1) (8 * d2.length) ^^^ raw 0 d2 := by
  rw [raw_append, raw_append, raw_eq_zn_xor _ d2, raw_eq_zn_xor _ d1]

/-! ## Four bytes -/

/-- The bytes of a 32-bit value, the lowest first. -/
def fourBytes (c : U32) : List U8 := [byteAt c 0, byteAt c 1, byteAt c 2, byteAt c 3]

/-- The bits below a byte at position `p` are zero, so the first `8*p` steps only move it down. -/
theorem zn_byte_in_place (b : U8) {p : Nat} (hp : p < 4) :
    zn (b.setWidth 32 <<< (8 * p)) 32 = zn (b.setWidth 32) (32 - 8 * p) := by
  have hlow : zn (b.setWidth 32 <<< (8 * p)) (8 * p) = b.setWidth 32 := by
    rw [zn_of_low_zeros fun i hi => by simp [hi]]
    refine BitVec.eq_of_getLsbD_eq fun j hj => ?_
    by_cases hb : j < 8
    · have hin : 8 * p + j < 32 := by omega
      simp [hin, hj]
    · simp [BitVec.getLsbD_of_ge b j (by omega)]
  have hsteps : 8 * p + (32 - 8 * p) = 32 := by omega
  have hadd := zn_add (b.setWidth 32 <<< (8 * p)) (8 * p) (32 - 8 * p)
  rwa [hsteps, hlow] at hadd

/-- 32 LFSR steps take each byte of a value from its own place. -/
theorem zn_eq_xor_bytes (c : U32) :
    zn c 32 = zn ((byteAt c 0).setWidth 32) 32 ^^^ zn ((byteAt c 1).setWidth 32) 24 ^^^
      zn ((byteAt c 2).setWidth 32) 16 ^^^ zn ((byteAt c 3).setWidth 32) 8 := by
  conv_lhs => rw [← xor_bytes_in_place c, zn_xor, zn_xor, zn_xor]
  rw [zn_byte_in_place _ (p := 0) (by omega), zn_byte_in_place _ (p := 1) (by omega),
    zn_byte_in_place _ (p := 2) (by omega), zn_byte_in_place _ (p := 3) (by omega)]

theorem raw_fourBytes (a c : U32) : raw a (fourBytes c) = zn (a ^^^ c) 32 := by
  rw [raw_eq_zn_xor, zn_xor, zn_eq_xor_bytes c]
  congr 1
  simp [fourBytes, raw, swb_byteTable, zn_xor, ← zn_add]

/-! ## Eight bytes: the word step -/

/-- The bytes of a word, the lowest address first (R32). -/
def wordBytes (w : U64) : List U8 := (List.finRange 8).map fun j => byteAt w j.val

/-- 64 LFSR steps of a 64-bit register: its low half passes first, and the high half joins after 32 steps. -/
def znWide (x : U64) : U32 := zn (zn (x.setWidth 32) 32 ^^^ x.extractLsb' 32 32) 32

theorem byteAt_setWidth (x : U64) {j : Nat} (hj : j < 4) : byteAt (x.setWidth 32) j = byteAt x j := by
  refine BitVec.eq_of_getLsbD_eq fun i hi => ?_
  have : 8 * j + i < 32 := by omega
  simp [byteAt, hi, this]

theorem byteAt_upper (x : U64) {j : Nat} (hj : j < 4) : byteAt (x.extractLsb' 32 32) j = byteAt x (4 + j) := by
  refine BitVec.eq_of_getLsbD_eq fun i hi => ?_
  have hin : 8 * j + i < 32 := by omega
  have hat : 32 + (8 * j + i) = 8 * (4 + j) + i := by omega
  simp [byteAt, hi, hin, hat]

theorem wordBytes_eq_append (w : U64) :
    wordBytes w = fourBytes (w.setWidth 32) ++ fourBytes (w.extractLsb' 32 32) := by
  simp only [fourBytes, byteAt_setWidth w (show 0 < 4 by omega), byteAt_setWidth w (show 1 < 4 by omega),
    byteAt_setWidth w (show 2 < 4 by omega), byteAt_setWidth w (show 3 < 4 by omega),
    byteAt_upper w (show 0 < 4 by omega), byteAt_upper w (show 1 < 4 by omega),
    byteAt_upper w (show 2 < 4 by omega), byteAt_upper w (show 3 < 4 by omega)]
  rfl

/-- R66: eight byte steps are 64 steps of the widened accumulator XOR the word. -/
theorem raw_wordBytes (a : U32) (w : U64) : raw a (wordBytes w) = znWide (a.setWidth 64 ^^^ w) := by
  have hlow : (a.setWidth 64 ^^^ w).setWidth 32 = a ^^^ w.setWidth 32 := by
    rw [BitVec.setWidth_xor, BitVec.setWidth_setWidth_of_le a (by omega), BitVec.setWidth_eq]
  have hhigh : (a.setWidth 64 ^^^ w).extractLsb' 32 32 = w.extractLsb' 32 32 := by
    refine BitVec.eq_of_getLsbD_eq fun i hi => ?_
    simp [hi]
  rw [wordBytes_eq_append, raw_append, raw_fourBytes, raw_fourBytes, znWide, hlow, hhigh]

/-- R65: row `7 - j` holds byte `j` with as many zero bytes as follow it. -/
theorem swwLookups_byteTable (x : U64) : swwLookups byteTable x = raw 0 (wordBytes x) := by
  have hbytes : wordBytes x = [byteAt x 0, byteAt x 1, byteAt x 2, byteAt x 3, byteAt x 4, byteAt x 5, byteAt x 6,
    byteAt x 7] := rfl
  simp [hbytes, swwLookups, tableAt_byteTable, raw, swb_byteTable, zn_xor, ← zn_add]

/-- R66: an 8-byte step of the software engine is eight byte steps in ascending address order. -/
theorem sww_byteTable (a : U32) (w : U64) : sww byteTable a w = raw a (wordBytes w) := by
  rw [sww, swwLookups_byteTable, raw_wordBytes, raw_wordBytes]
  simp

/-! ## The hardware's word step -/

theorem wideStep_xor (x y : U64) : wideStep (x ^^^ y) = wideStep x ^^^ wideStep y := by
  have hselect (p q : Bool) (c : U64) :
      (if (p ^^ q) = true then c else 0) = (if p = true then c else 0) ^^^ (if q = true then c else 0) := by
    cases p <;> cases q <;> simp
  unfold wideStep
  rw [BitVec.getLsbD_xor, BitVec.ushiftRight_xor_distrib, hselect]
  ac_rfl

theorem wideSteps_xor (x y : U64) (n : Nat) : wideSteps (x ^^^ y) n = wideSteps x n ^^^ wideSteps y n := by
  induction n with
  | zero => rfl
  | succ n ih => rw [wideSteps, ih, wideStep_xor, wideSteps, wideSteps]

theorem wideSteps_add (x : U64) (m n : Nat) : wideSteps x (m + n) = wideSteps (wideSteps x m) n := by
  induction n with
  | zero => rfl
  | succ n ih => rw [← Nat.add_assoc, wideSteps, ih, wideSteps]

/-- With its upper half zero the wide register steps as a raw state does. -/
theorem wideStep_setWidth (v : U32) : wideStep (v.setWidth 64) = (z1 v).setWidth 64 := by
  have hshift : v.setWidth 64 >>> 1 = (v >>> 1).setWidth 64 := by
    refine BitVec.eq_of_getLsbD_eq fun j hj => ?_
    by_cases h : 1 + j < 64
    · have hj' : j < 64 := by omega
      simp [h, hj']
    · have hj' : j = 63 := by omega
      subst hj'
      simp
  unfold wideStep z1
  have hbit : (v.setWidth 64).getLsbD 0 = v.getLsbD 0 := by simp
  rw [hshift, hbit, BitVec.setWidth_xor]
  cases v.getLsbD 0 <;> simp

theorem wideSteps_setWidth (v : U32) (n : Nat) : wideSteps (v.setWidth 64) n = (zn v n).setWidth 64 := by
  induction n with
  | zero => rfl
  | succ n ih => rw [wideSteps, ih, wideStep_setWidth, zn]

/-- `n` steps of the wide register with only zero bits to shift out are a plain shift. -/
theorem wideSteps_of_low_zeros {x : U64} {n : Nat} (h : ∀ i < n, x.getLsbD i = false) : wideSteps x n = x >>> n := by
  induction n with
  | zero => simp [wideSteps]
  | succ n ih =>
    rw [wideSteps, ih fun i hi => h i (by omega), wideStep, BitVec.getLsbD_ushiftRight, Nat.add_zero,
      h n (by omega), ← BitVec.shiftRight_add]
    simp

/-- R78: after 64 steps the wide register holds the 32-bit result, its upper half zero. -/
theorem wideSteps_eq_znWide (x : U64) : wideSteps x 64 = (znWide x).setWidth 64 := by
  have hsplit : x = (x.setWidth 32).setWidth 64 ^^^ (x.extractLsb' 32 32).setWidth 64 <<< 32 := by
    refine BitVec.eq_of_getLsbD_eq fun j hj => ?_
    by_cases h : j < 32
    · simp [h, hj]
    · have hin : j - 32 < 64 ∧ j - 32 < 32 ∧ 32 + (j - 32) = j := by omega
      simp [h, hj, hin]
  have hhigh : wideSteps ((x.extractLsb' 32 32).setWidth 64 <<< 32) 32 = (x.extractLsb' 32 32).setWidth 64 := by
    rw [wideSteps_of_low_zeros fun i hi => by simp [hi]]
    refine BitVec.eq_of_getLsbD_eq fun j hj => ?_
    by_cases h : j < 32
    · have hin : 32 + j < 64 := by omega
      simp [h, hj, hin]
    · have hout : ¬ 32 + j < 64 := by omega
      simp [h, hout]
  have hhalf : wideSteps x 32 = (zn (x.setWidth 32) 32 ^^^ x.extractLsb' 32 32).setWidth 64 := by
    conv_lhs => rw [hsplit]
    rw [wideSteps_xor, wideSteps_setWidth, hhigh, BitVec.setWidth_xor]
  rw [wideSteps_add x 32 32, hhalf, wideSteps_setWidth, znWide]

/-- R79: an 8-byte step of the hardware engine is eight byte steps too. -/
theorem hww_eq_raw (a : U32) (w : U64) : hww a w = raw a (wordBytes w) := by
  rw [hww, wideSteps_eq_znWide, BitVec.setWidth_setWidth_of_le _ (by omega), BitVec.setWidth_eq, raw_wordBytes]

/-! ## The software engine's step operations -/

theorem TablesBuilt.bt_eq {s : State} (h : TablesBuilt s) (hd : s.initDone = true) : s.bt = some byteTable := by
  rw [byteTable_eq_closed]
  exact (h hd).1

theorem exec_swb_of_bt {s : State} {tab : ByteTable} (hd : s.initDone = true) (ht : s.bt = some tab) :
    exec .swb s = .next (setOut (swb tab s.micro.vec s.micro.byte) s) := by
  change execSwb s = _
  rw [execSwb, software_byteStep hd ht, except_ok_bind, toOutcome_ok]

theorem exec_sww_of_bt {s : State} {tab : ByteTable} (hd : s.initDone = true) (ht : s.bt = some tab) :
    exec .sww s = .next (setOut (sww tab s.micro.vec s.micro.data) s) := by
  change execSww s = _
  rw [execSww, software_wordStep hd ht, except_ok_bind, toOutcome_ok]

/-- Settles O32: the operation is `swb`, and with the built table that is the LFSR's eight steps. -/
theorem swbIsTheTableByteStep : Obligations.SwbIsTheTableByteStep := by
  unfold Obligations.SwbIsTheTableByteStep
  intro s hd
  refine ⟨fun tab ht => exec_swb_of_bt hd ht, fun hb => ?_⟩
  rw [exec_swb_of_bt hd (hb.bt_eq hd), swb_byteTable]

/-- R65: the eight lookups, byte `j` in row `7 - j`, as a fold. -/
theorem swwLookups_eq_foldl (tab : ByteTable) (x : U64) :
    swwLookups tab x = (List.finRange 8).foldl (fun sum j => sum ^^^ tableAt tab (Fin.rev j) (byteAt x j.val)) 0 := by
  conv_rhs => rw [show (List.finRange 8) = [0, 1, 2, 3, 4, 5, 6, 7] by decide]
  simp only [List.foldl_cons, List.foldl_nil, BitVec.ofNat_eq_ofNat, BitVec.zero_xor]
  rfl

/-- Settles O33: the operation is `sww`, whose lookups are the fold. -/
theorem swwIsEightLookups : Obligations.SwwIsEightLookups := by
  unfold Obligations.SwwIsEightLookups
  intro s tab hd ht
  rw [exec_sww_of_bt hd ht, sww, swwLookups_eq_foldl]
  rfl

/-- The oracle over a word's bytes, as the byte steps one after the other. -/
theorem raw_wordBytes_eq_foldl (a : U32) (w : U64) :
    raw a (wordBytes w) = (List.finRange 8).foldl (fun acc j => swb byteTable acc (byteAt w j.val)) a := by
  rw [raw_eq_foldl, wordBytes, List.foldl_map]

/-- Settles O34: both sides are the byte oracle over the word's bytes. -/
theorem wordStepIsEightByteSteps : Obligations.WordStepIsEightByteSteps := by
  unfold Obligations.WordStepIsEightByteSteps
  intro s hd hb
  have hword : ∀ (a : U32) (w : U64), sww byteTable a w = _ := fun a w =>
    (sww_byteTable a w).trans (raw_wordBytes_eq_foldl a w)
  refine ⟨byteTable, hb.bt_eq hd, hword, ?_⟩
  rw [exec_sww_of_bt hd (hb.bt_eq hd), hword]
  rfl

end Sys2Proof.Machine
end

section
/-! PROOFS. The bytes of a buffer as the oracle takes them (20_memory.md rules R31 to R33), and what the paths of both
engines leave over readable bytes: a byte step, a word step, the three lanes with COMBINE, and the single lane
(43_software_engine.md rules R67 to R71). -/

namespace Sys2Proof.Machine

/-! ## The bytes of a buffer -/

theorem bufferBytes_succ_eq_some {s : State} {addr n : Nat} {d : List U8} :
    bufferBytes s addr (n + 1) = some d ↔
      ∃ b bs, memRead1 s addr = .ok b ∧ bufferBytes s (addr + 1) n = some bs ∧ d = b :: bs := by
  simp only [bufferBytes]
  cases memRead1 s addr <;> cases bufferBytes s (addr + 1) n <;> simp [eq_comm]

/-- The bytes of a buffer are those of its first part and those of the rest. -/
theorem bufferBytes_split {s : State} {addr m n : Nat} {d : List U8} (h : bufferBytes s addr (m + n) = some d) :
    bufferBytes s addr m = some (d.take m) ∧ bufferBytes s (addr + m) n = some (d.drop m) := by
  induction m generalizing addr d with
  | zero => simpa [bufferBytes] using h
  | succ m ih =>
    rw [Nat.add_right_comm] at h
    obtain ⟨b, bs, hb, hbs, rfl⟩ := bufferBytes_succ_eq_some.1 h
    obtain ⟨htake, hdrop⟩ := ih hbs
    refine ⟨bufferBytes_succ_eq_some.2 ⟨b, _, hb, htake, rfl⟩, ?_⟩
    rw [← Nat.add_assoc, Nat.add_right_comm, hdrop, List.drop_succ_cons]

theorem bufferBytes_take {s : State} {addr n k : Nat} {d : List U8} (h : bufferBytes s addr n = some d) (hk : k ≤ n) :
    bufferBytes s addr k = some (d.take k) :=
  (bufferBytes_split (m := k) (n := n - k) (by rwa [Nat.add_sub_cancel' hk])).1

theorem bufferBytes_drop {s : State} {addr n k : Nat} {d : List U8} (h : bufferBytes s addr n = some d) (hk : k ≤ n) :
    bufferBytes s (addr + k) (n - k) = some (d.drop k) :=
  (bufferBytes_split (m := k) (n := n - k) (by rwa [Nat.add_sub_cancel' hk])).2

theorem memRead1_of_bufferBytes {s : State} {addr n : Nat} {d : List U8} (h : bufferBytes s addr n = some d) {i : Nat}
    (hi : i < d.length) : memRead1 s (addr + i) = .ok d[i] := by
  induction n generalizing addr d i with
  | zero => cases h; simp at hi
  | succ n ih =>
    obtain ⟨b, bs, hb, hbs, rfl⟩ := bufferBytes_succ_eq_some.1 h
    cases i with
    | zero => exact hb
    | succ i =>
      have := ih hbs (i := i) (by simpa using hi)
      rwa [Nat.add_right_comm] at this

/-- A readable buffer ends at the top of the address space at the latest (R33). -/
theorem bufferBytes_end {s : State} {addr n : Nat} {d : List U8} (h : bufferBytes s addr n = some d) (hn : n ≠ 0) :
    addr + n ≤ 2 ^ s.aw := by
  have hlast := memRead1_of_bufferBytes h (i := n - 1) (by rw [bufferBytes_length h]; omega)
  have := ((memRead1_ok_iff ..).1 hlast).1
  omega

theorem wordBytes_littleEndian (b : Fin 8 → U8) :
    wordBytes (littleEndian (b 0) (b 1) (b 2) (b 3) (b 4) (b 5) (b 6) (b 7)) = List.ofFn b := by
  rw [wordBytes, List.ofFn_eq_map]
  refine List.map_congr_left fun j _ => BitVec.eq_of_toNat_eq ?_
  simp only [byteAt, BitVec.extractLsb'_toNat, littleEndian, toNat_append_eq_add, Nat.shiftRight_eq_div_pow]
  have h0 := (b 0).isLt
  have h1 := (b 1).isLt
  have h2 := (b 2).isLt
  have h3 := (b 3).isLt
  have h4 := (b 4).isLt
  have h5 := (b 5).isLt
  have h6 := (b 6).isLt
  have h7 := (b 7).isLt
  fin_cases j <;> simp only [Fin.reduceFinMk, Fin.zero_eta, Fin.mk_one] <;> omega

/-- An aligned 8-byte read is the word of the buffer's eight bytes there (R32). -/
theorem memRead8_of_bufferBytes {s : State} {addr : Nat} {d : List U8} (ha : addr % 8 = 0)
    (h : bufferBytes s addr 8 = some d) : ∃ w, memRead8 s addr = .ok w ∧ wordBytes w = d := by
  have hlen := bufferBytes_length h
  obtain ⟨b, rfl⟩ : ∃ b : Fin 8 → U8, d = List.ofFn b :=
    ⟨fun j => d[j.val]'(by omega), List.ext_getElem (by simp [hlen]) fun _ _ _ => by rw [List.getElem_ofFn]⟩
  refine ⟨_, memRead8_of_bytes ha fun j => ?_, wordBytes_littleEndian b⟩
  rw [memRead1_of_bufferBytes h (i := j.val) (by simp), List.getElem_ofFn]

/-! ## The steps of an engine that stands ready -/

section
variable {e : Engine} {s : State}

theorem EngineReady.byteStep_eq (h : EngineReady e s) (a : U32) (b : U8) : byteStep e s a b = .ok (raw a [b]) := by
  obtain ⟨hd, ht, hc⟩ := h
  cases e with
  | software => exact software_byteStep hd (ht.bt_eq hd) a b
  | hardware => rw [hardware_byteStep (hc rfl), hwb_eq_swb]; rfl

theorem EngineReady.wordStep_eq (h : EngineReady e s) (a : U32) (w : U64) :
    wordStep e s a w = .ok (raw a (wordBytes w)) := by
  obtain ⟨hd, ht, hc⟩ := h
  cases e with
  | software => rw [software_wordStep hd (ht.bt_eq hd), sww_byteTable]
  | hardware => rw [hardware_wordStep (hc rfl), hww_eq_raw]

/-- `k` bytes lie below the top of the address space, or end there with none left after them (R33, U2). -/
def Room (k : Nat) (s : State) : Prop := s.next + k < 2 ^ s.aw ∨ (s.next + k = 2 ^ s.aw ∧ s.len = k)

theorem consumeByte_eq {d : List U8} (h : EngineReady e s) (hd : bufferBytes s s.next 1 = some d) (hr : Room 1 s) :
    consumeByte e s = .ok (withLoop (raw s.acc0 d) s.acc1 s.acc2 (nextAfter s.aw s.next 1) (s.len - 1) s) := by
  obtain ⟨b, bs, hb, hbs, rfl⟩ := bufferBytes_succ_eq_some.1 hd
  cases hbs
  rw [consumeByte, nextByte, hb, except_ok_bind, h.byteStep_eq, except_ok_bind]
  exact advance_of_room (s := setAcc0 (raw s.acc0 [b]) s) hr

theorem consumeWord_eq {d : List U8} (h : EngineReady e s) (hn : s.next % 8 = 0)
    (hd : bufferBytes s s.next 8 = some d) (hr : Room 8 s) :
    consumeWord e s = .ok (withLoop (raw s.acc0 d) s.acc1 s.acc2 (nextAfter s.aw s.next 8) (s.len - 8) s) := by
  obtain ⟨w, hw, rfl⟩ := memRead8_of_bufferBytes hn hd
  rw [consumeWord, nextWord, hw, except_ok_bind, h.wordStep_eq, except_ok_bind]
  exact advance_of_room (s := setAcc0 (raw s.acc0 (wordBytes w)) s) hr

/-! ## The three lanes and COMBINE -/

theorem laneIteration_eq {block i : Nat} {w0 w1 w2 : U64} (h : EngineReady e s)
    (h0 : memRead8 s (s.next + 8 * i) = .ok w0) (h1 : memRead8 s (s.next + block + 8 * i) = .ok w1)
    (h2 : memRead8 s (s.next + 2 * block + 8 * i) = .ok w2) :
    laneIteration e block i s = .ok (withLoop (raw s.acc0 (wordBytes w0)) (raw s.acc1 (wordBytes w1))
      (raw s.acc2 (wordBytes w2)) s.next s.len s) := by
  simp only [laneIteration, h0, h1, h2, h.wordStep_eq, except_ok_bind]
  rfl

/-- Each lane of a group takes its own stretch as the byte oracle does (R70). -/
theorem laneLoop_eq {block count : Nat} {d0 d1 d2 : List U8} (h : EngineReady e s) (hn : s.next % 8 = 0)
    (hb : block % 8 = 0) (h0 : bufferBytes s s.next (8 * count) = some d0)
    (h1 : bufferBytes s (s.next + block) (8 * count) = some d1)
    (h2 : bufferBytes s (s.next + 2 * block) (8 * count) = some d2) :
    laneLoop e block count s =
      .ok (withLoop (raw s.acc0 d0) (raw s.acc1 d1) (raw s.acc2 d2) s.next s.len s) := by
  induction count generalizing d0 d1 d2 with
  | zero => cases h0; cases h1; cases h2; rfl
  | succ count ih =>
    obtain ⟨t0, l0⟩ := bufferBytes_split (m := 8 * count) (n := 8) h0
    obtain ⟨t1, l1⟩ := bufferBytes_split (m := 8 * count) (n := 8) h1
    obtain ⟨t2, l2⟩ := bufferBytes_split (m := 8 * count) (n := 8) h2
    obtain ⟨w0, r0, e0⟩ := memRead8_of_bufferBytes (by omega) l0
    obtain ⟨w1, r1, e1⟩ := memRead8_of_bufferBytes (by omega) l1
    obtain ⟨w2, r2, e2⟩ := memRead8_of_bufferBytes (by omega) l2
    have hready : EngineReady e (withLoop (raw s.acc0 (d0.take (8 * count))) (raw s.acc1 (d1.take (8 * count)))
        (raw s.acc2 (d2.take (8 * count))) s.next s.len s) := h.of_frame (registers_frame ..)
    rw [laneLoop, ih t0 t1 t2]
    refine (laneIteration_eq hready r0 r1 r2).trans ?_
    rw [e0, e1, e2]
    simp only [withLoop, ← raw_append, List.take_append_drop]

theorem combine_of_shiftTable {which : TableSel} {tab : ShiftTable} (hd : s.initDone = true)
    (ht : shiftTable s which = some tab) :
    combine which s = .ok (setAcc0 (shiftBy tab (shiftBy tab s.acc0 ^^^ s.acc1) ^^^ s.acc2) s) := by
  rw [combine, readShiftTable_eq_ok.2 ⟨hd, ht⟩, except_ok_bind]

/-- R69 on an initialised engine: the shifts advance by the block's zero bytes. -/
theorem combine_of_tablesBuilt (hd : s.initDone = true) (ht : TablesBuilt s) (which : TableSel) :
    combine which s = .ok (setAcc0
      (zn (zn s.acc0 (8 * blockOf which) ^^^ s.acc1) (8 * blockOf which) ^^^ s.acc2) s) := by
  rw [combine_of_shiftTable hd (ht.shiftTable_eq hd which), shiftBy_closedShiftTable, shiftBy_closedShiftTable]

theorem combine_withLoop (h : EngineReady e s) (which : TableSel) (a0 a1 a2 : U32) (nx ln : Nat) :
    combine which (withLoop a0 a1 a2 nx ln s) = .ok (withLoop
      (zn (zn a0 (8 * blockOf which) ^^^ a1) (8 * blockOf which) ^^^ a2) a1 a2 nx ln s) := by
  obtain ⟨hd, ht, -⟩ := h.of_frame (registers_frame a0 a1 a2 nx ln s.ph s.res s.st s.resValid s)
  exact combine_of_tablesBuilt (s := withLoop a0 a1 a2 nx ln s) hd ht which

/-- The three stretches of a group (R70). -/
theorem bufferBytes_lanes {addr block : Nat} {d : List U8} (h : bufferBytes s addr (3 * block) = some d) :
    bufferBytes s addr block = some (d.take block) ∧
      bufferBytes s (addr + block) block = some ((d.drop block).take block) ∧
      bufferBytes s (addr + 2 * block) block = some (d.drop (2 * block)) := by
  rw [show 3 * block = block + (block + block) by omega] at h
  obtain ⟨h0, h⟩ := bufferBytes_split h
  obtain ⟨h1, h2⟩ := bufferBytes_split h
  rw [List.drop_drop, Nat.add_assoc, ← Nat.two_mul] at h2
  exact ⟨h0, h1, h2⟩

/-- R70: what COMBINE makes of the three lanes is the oracle's value for the three stretches. -/
theorem raw_of_lanes {block : Nat} {d : List U8} (a : U32) (h : d.length = 3 * block) :
    zn (zn (raw a (d.take block)) (8 * block) ^^^ raw 0 ((d.drop block).take block)) (8 * block) ^^^
      raw 0 (d.drop (2 * block)) = raw a d := by
  have hlanes : d.take block ++ (d.drop block).take block ++ d.drop (2 * block) = d := by
    rw [Nat.two_mul, ← List.drop_drop, List.append_assoc, List.take_append_drop, List.take_append_drop]
  have h1 : ((d.drop block).take block).length = block := by
    rw [List.length_take, List.length_drop]
    omega
  have h2 : (d.drop (2 * block)).length = block := by
    rw [List.length_drop]
    omega
  have hraw := raw_threeLanes a (d.take block) ((d.drop block).take block) (d.drop (2 * block))
  rw [hlanes, h1, h2] at hraw
  exact hraw.symm

/-- A group over readable bytes leaves in `ACC0` what the oracle gives for them all, and in the other lanes what it
gives for their stretches (R70, R71, R81, R82). -/
theorem group_eq {which : TableSel} {d : List U8} (h : EngineReady e s) (hn : s.next % 8 = 0)
    (hl : 3 * blockOf which ≤ s.len) (hd : bufferBytes s s.next (3 * blockOf which) = some d)
    (hr : Room (3 * blockOf which) s) :
    group e which s = .ok (withLoop (raw s.acc0 d) (raw 0 ((d.drop (blockOf which)).take (blockOf which)))
      (raw 0 (d.drop (2 * blockOf which))) (nextAfter s.aw s.next (3 * blockOf which))
      (s.len - 3 * blockOf which) s) := by
  have hblock : blockOf which % 8 = 0 := by cases which <;> rfl
  have hsame (addr : Nat) : bufferBytes (setAcc2 0 (setAcc1 0 s)) addr (8 * (blockOf which / 8)) =
      bufferBytes s addr (blockOf which) := by
    rw [show 8 * (blockOf which / 8) = blockOf which by omega]
    exact bufferBytes_congr (s := setAcc2 0 (setAcc1 0 s)) (t := s) rfl rfl addr _
  obtain ⟨h0, h1, h2⟩ := bufferBytes_lanes hd
  have hloop : laneLoop e (blockOf which) (blockOf which / 8) (setAcc2 0 (setAcc1 0 s)) =
      .ok (withLoop (raw s.acc0 (d.take (blockOf which))) (raw 0 ((d.drop (blockOf which)).take (blockOf which)))
        (raw 0 (d.drop (2 * blockOf which))) s.next s.len s) :=
    laneLoop_eq (s := setAcc2 0 (setAcc1 0 s)) (h.of_frame (registers_frame ..)) hn hblock ((hsame _).trans h0)
      ((hsame _).trans h1) ((hsame _).trans h2)
  rw [group, if_pos ((groupFits_iff which s).2 hl), hloop, except_ok_bind, combine_withLoop h, except_ok_bind,
    raw_of_lanes _ (bufferBytes_length hd)]
  exact advance_of_room (s := withLoop _ _ _ s.next s.len s) hr

/-- A group tests its length before it reads a byte. -/
theorem group_of_short {which : TableSel} (e : Engine) (h : s.len < 3 * blockOf which) :
    group e which s = .error .groupPastEnd :=
  if_neg fun hf => Nat.not_le.2 h ((groupFits_iff which s).1 hf)

/-! ## The bytes still to come -/

/-- The engine has readable bytes still to come, from which the byte oracle takes `ACC0` to `r`; while there are any
it stands ready. -/
structure Course (e : Engine) (r : U32) (s : State) : Prop where
  ready : s.len ≠ 0 → EngineReady e s
  bytes : ∃ d, bufferBytes s s.next s.len = some d ∧ raw s.acc0 d = r

variable {r : U32}

/-- The next `k` of the bytes to come lie below the top of the address space. -/
theorem room_of_bufferBytes {k : Nat} {d : List U8} (h : bufferBytes s s.next s.len = some d) (hk : k ≤ s.len)
    (hl : s.len ≠ 0) : Room k s := by
  have hend := bufferBytes_end h hl
  unfold Room
  omega

theorem bufferBytes_withLoop (a0 a1 a2 : U32) (nx ln : Nat) (s : State) (addr n : Nat) :
    bufferBytes (withLoop a0 a1 a2 nx ln s) addr n = bufferBytes s addr n :=
  bufferBytes_congr (s := withLoop a0 a1 a2 nx ln s) (t := s) rfl rfl addr n

/-- With the next `k` bytes taken into `ACC0` the oracle still comes to the same value. -/
theorem Course.of_taken {k : Nat} {d : List U8} (h : Course e r s) (hd : bufferBytes s s.next s.len = some d)
    (hk : k ≤ s.len) (a1 a2 : U32) :
    Course e r (withLoop (raw s.acc0 (d.take k)) a1 a2 (nextAfter s.aw s.next k) (s.len - k) s) := by
  obtain ⟨d', hd', hr⟩ := h.bytes
  obtain rfl : d = d' := Option.some.inj (hd.symm.trans hd')
  refine ⟨fun hl => (h.ready fun hz => hl (by simp [withLoop, hz])).of_frame (registers_frame ..), d.drop k, ?_, ?_⟩
  · have hrest := bufferBytes_drop hd hk
    rw [bufferBytes_withLoop]
    change bufferBytes s (nextAfter s.aw s.next k) (s.len - k) = _
    by_cases hl : s.len - k = 0
    · rw [hl] at hrest ⊢
      exact hrest
    · have hend := bufferBytes_end hd (by omega)
      rwa [nextAfter_of_room (by omega)]
  · rw [← hr, withLoop, ← raw_append, List.take_append_drop]

theorem Course.consumeByte_answers (h : Course e r s) (hl : s.len ≠ 0) :
    ∃ t, consumeByte e s = .ok t ∧ Course e r t := by
  obtain ⟨d, hd, -⟩ := h.bytes
  have hone : 1 ≤ s.len := Nat.one_le_iff_ne_zero.2 hl
  exact ⟨_, consumeByte_eq (h.ready hl) (bufferBytes_take hd hone) (room_of_bufferBytes hd hone hl),
    h.of_taken hd hone ..⟩

theorem Course.consumeWord_answers (h : Course e r s) (hl : 8 ≤ s.len) (hn : s.next % 8 = 0) :
    ∃ t, consumeWord e s = .ok t ∧ Course e r t := by
  obtain ⟨d, hd, -⟩ := h.bytes
  exact ⟨_, consumeWord_eq (h.ready (by omega)) hn (bufferBytes_take hd hl) (room_of_bufferBytes hd hl (by omega)),
    h.of_taken hd hl ..⟩

theorem Course.group_answers {which : TableSel} (h : Course e r s) (hl : 3 * blockOf which ≤ s.len)
    (hn : s.next % 8 = 0) : ∃ t, group e which s = .ok t ∧ Course e r t := by
  obtain ⟨d, hd, -⟩ := h.bytes
  have hpos : 0 < blockOf which := by cases which <;> decide
  exact ⟨_, group_eq (h.ready (by omega)) hn hl (bufferBytes_take hd hl) (room_of_bufferBytes hd hl (by omega)),
    h.of_taken hd hl ..⟩

/-- With no byte left the oracle's value stands in `ACC0`. -/
theorem Course.acc0_of_end (h : Course e r s) (hl : s.len = 0) : s.acc0 = r := by
  obtain ⟨d, hd, hr⟩ := h.bytes
  rw [hl] at hd
  cases hd
  exact hr

/-! ## The single lane -/

/-- A loop whose body answers, keeps `P` and lowers `LEN` answers with its condition at an end. -/
theorem loopWhile_answers {cond : State → Bool} {body : State → Except Fault State} {P : State → Prop}
    (hbody : ∀ s, cond s = true → P s → ∃ t, body s = .ok t ∧ P t ∧ t.len < s.len) (count : Nat) {s : State}
    (hs : P s) (hc : s.len ≤ count) :
    ∃ t, loopWhile cond body count s = .ok t ∧ P t ∧ cond t = false := by
  induction count generalizing s with
  | zero =>
    refine ⟨s, rfl, hs, Bool.eq_false_iff.2 fun hcond => ?_⟩
    obtain ⟨t, -, -, hlt⟩ := hbody s hcond hs
    omega
  | succ count ih =>
    rw [loopWhile]
    split
    · rename_i hcond
      obtain ⟨t, ht, hp, hlt⟩ := hbody s hcond hs
      obtain ⟨u, hu, hend⟩ := ih hp (by omega)
      exact ⟨u, by rw [ht]; exact hu, hend⟩
    · rename_i hcond
      exact ⟨s, rfl, hs, by simpa using hcond⟩

theorem Course.singleLane_answers (h : Course e r s) :
    ∃ t, singleLane e s = .ok t ∧ t.len = 0 ∧ t.acc0 = r := by
  have hbyte : ∀ u, u.len ≠ 0 → Course e r u → ∃ v, consumeByte e u = .ok v ∧ Course e r v ∧ v.len < u.len := by
    intro u hl hu
    obtain ⟨v, hv, hcourse⟩ := hu.consumeByte_answers hl
    have := (consumeByte_moved hl hv).len
    exact ⟨v, hv, hcourse, by omega⟩
  have hword : ∀ u, wordFits u = true → Course e r u ∧ (u.len ≠ 0 → u.next % 8 = 0) →
      ∃ v, consumeWord e u = .ok v ∧ (Course e r v ∧ (v.len ≠ 0 → v.next % 8 = 0)) ∧ v.len < u.len := by
    rintro u hf ⟨hu, ha⟩
    have hl := (wordFits_iff u).1 hf
    obtain ⟨v, hv, hcourse⟩ := hu.consumeWord_answers hl (ha (by omega))
    have hm := consumeWord_moved hl hv
    have := hm.len
    exact ⟨v, hv, ⟨hcourse, hm.aligned rfl ha⟩, by omega⟩
  obtain ⟨s1, h1, c1, e1⟩ := loopWhile_answers
    (fun u hc => hbyte u ((prologueGoesOn_iff u).1 hc).1) s.len h le_rfl
  have ha : s1.len ≠ 0 → s1.next % 8 = 0 := fun hl => by
    by_contra hn
    simp [(prologueGoesOn_iff s1).2 ⟨hl, hn⟩] at e1
  obtain ⟨s2, h2, ⟨c2, -⟩, -⟩ := loopWhile_answers hword s1.len ⟨c1, ha⟩ le_rfl
  obtain ⟨s3, h3, c3, e3⟩ := loopWhile_answers
    (fun u hc => hbyte u ((bytesLeft_iff u).1 hc)) s2.len c2 le_rfl
  have hend : s3.len = 0 := by simpa [bytesLeft] using e3
  exact ⟨s3, by rw [singleLane, h1, except_ok_bind, h2, except_ok_bind, h3], hend, c3.acc0_of_end hend⟩

/-- Without a byte the single lane does nothing. -/
theorem singleLane_of_empty (e : Engine) (h : s.len = 0) : singleLane e s = .ok s := by
  simp [singleLane, h, loopWhile]

end

/-! ## The obligations -/

/-- Settles O36: `combine` as written, and the two shifts by `B` zero bytes are one by `2*B` in the first lane. -/
theorem combineRecombinesThreeLanes : Obligations.CombineRecombinesThreeLanes := by
  unfold Obligations.CombineRecombinesThreeLanes
  refine fun s which hd => ⟨fun tab ht => congrArg toOutcome (combine_of_shiftTable hd ht), fun ht => ?_⟩
  have htwice : 16 * blockOf which = 8 * blockOf which + 8 * blockOf which := by omega
  rw [htwice, zn_add, ← zn_xor]
  exact congrArg toOutcome (combine_of_tablesBuilt hd ht which)

/-- Settles O37: the group's equation, whose frame is the lane registers. -/
theorem softwareGroupsAreTheByteOracle : Obligations.SoftwareGroupsAreTheByteOracle := by
  unfold Obligations.SoftwareGroupsAreTheByteOracle
  intro s i which d hi hd ht hn hl hbytes hroom
  have hexec : exec i s = toOutcome (group .software which s) := by
    obtain ⟨rfl, rfl⟩ | ⟨rfl, rfl⟩ := hi <;> rfl
  have hr : Room (3 * blockOf which) s := by
    have hend := bufferBytes_end hbytes (by cases which <;> decide)
    unfold Room
    omega
  rw [hexec, group_eq (e := .software) ⟨hd, ht, nofun⟩ hn hl hbytes hr]
  exact ⟨_, rfl, rfl, rfl, rfl, rfl, fun h => nextAfter_of_room h, rfl⟩

/-- Settles O38: the test of the length fails in both engines. -/
theorem groupStopsBelowItsLength : Obligations.GroupStopsBelowItsLength := by
  unfold Obligations.GroupStopsBelowItsLength
  exact fun s => ⟨fun h => ⟨congrArg toOutcome (group_of_short (which := .short) _ h),
      congrArg toOutcome (group_of_short (which := .short) _ h)⟩,
    fun h => ⟨congrArg toOutcome (group_of_short (which := .long) _ h),
      congrArg toOutcome (group_of_short (which := .long) _ h)⟩⟩

/-- Settles O35: the three loops of the single lane, each on the bytes the one before left. -/
theorem sw1IsTheByteOracle : Obligations.Sw1IsTheByteOracle := by
  unfold Obligations.Sw1IsTheByteOracle
  refine ⟨fun s d hd ht hbytes => ?_, fun s hl => congrArg toOutcome (singleLane_of_empty .software hl)⟩
  have hcourse : Course .software (raw s.acc0 d) s := ⟨fun _ => ⟨hd, ht, nofun⟩, d, hbytes, rfl⟩
  obtain ⟨t, hlane, hlen, hacc⟩ := hcourse.singleLane_answers
  exact ⟨t, congrArg toOutcome hlane, hacc, hlen, singleLane_eq_ok hlane⟩

end Sys2Proof.Machine
end

section
/-! PROOFS. The body of a checksum command over a readable buffer (43_software_engine.md rules R72 to R75): every arrow
answers and brings the byte oracle's value nearer to the response, and each phase has as many arrows as its bytes ask
for. -/

namespace Sys2Proof.Machine

/-! ## On course for the response -/

theorem BodyFrame.refl (s : State) : BodyFrame s s := ⟨.refl s, .refl s, rfl⟩

theorem BodyFrame.trans {s t u : State} (h1 : BodyFrame s t) (h2 : BodyFrame t u) : BodyFrame s u :=
  ⟨h1.toCommandFrame.trans h2.toCommandFrame, h1.toTablesSame.trans h2.toTablesSame, h2.bind.trans h1.bind⟩

section
variable {c : HostCmd} {e : Engine} {r : U32} {s : State}

theorem Course.of_frame {t : State} (h : Course e r s) (hf : BodyFrame s t) (hacc : t.acc0 = s.acc0)
    (hnext : t.next = s.next) (hlen : t.len = s.len) : Course e r t := by
  obtain ⟨d, hd, hr⟩ := h.bytes
  refine ⟨fun hl => (h.ready (hlen ▸ hl)).of_frame hf, d, ?_, hacc ▸ hr⟩
  rw [bufferBytes_congr hf.aw hf.mem, hnext, hlen, hd]

/-- A checksum command in its body or over: its engine comes to `r` over the bytes still to come, the phases that read
words find `NEXT` aligned, and the response is `r` complemented (R24, R63). -/
structure OnCourse (c : HostCmd) (r : U32) (s : State) : Prop where
  engine : ∃ e, engineFor c s = .ok e ∧ Course e r s
  aligned : (s.ph = .l ∨ s.ph = .s ∨ s.ph = .w) → s.len ≠ 0 → s.next % 8 = 0
  guarded : s.ph ≠ .init ∧ s.ph ≠ .detect
  response : s.ph = .idle → s.res = r ^^^ allOnes

/-- Both ways out of a test lead to the same claim. -/
theorem ite_answers {guard : Bool} {x : Except Fault State} {y : State} {P : State → Prop}
    (hx : guard = true → ∃ t, x = .ok t ∧ P t) (hy : P y) : ∃ t, (if guard then x else .ok y) = .ok t ∧ P t := by
  cases guard with
  | true => exact hx rfl
  | false => exact ⟨y, rfl, hy⟩

/-- Every arrow of the body answers over readable bytes, whichever way its guard goes. -/
theorem Course.arrow_answers (h : Course e r s) (he : engineFor c s = .ok e) (hb : InBody s)
    (ha : (s.ph = .l ∨ s.ph = .s ∨ s.ph = .w) → s.len ≠ 0 → s.next % 8 = 0) :
    ∃ t, arrow c s = .ok t ∧ Course e r t := by
  have hleave (ph : Phase) : Course e r (enterPhase ph s) := h.of_frame (enterPhase_frame ph s) rfl rfl rfl
  unfold arrow
  rw [he]
  simp only [except_ok_bind]
  cases hp : s.ph with
  | idle => exact absurd hp hb.1
  | init => exact absurd hp hb.2.1
  | detect => exact absurd hp hb.2.2
  | p => exact ite_answers (fun hg => h.consumeByte_answers ((prologueGoesOn_iff s).1 hg).1) (hleave .l)
  | l =>
    refine ite_answers (fun hg => ?_) (hleave .s)
    have hl := (groupFits_long_iff s).1 hg
    exact h.group_answers hl (ha (by simp [hp]) (by omega))
  | s =>
    refine ite_answers (fun hg => ?_) (hleave .w)
    have hl := (groupFits_short_iff s).1 hg
    exact h.group_answers hl (ha (by simp [hp]) (by omega))
  | w =>
    refine ite_answers (fun hg => ?_) (hleave .t)
    have hl := (wordFits_iff s).1 hg
    exact h.consumeWord_answers hl (ha (by simp [hp]) (by omega))
  | t =>
    exact ite_answers (fun hg => h.consumeByte_answers ((bytesLeft_iff s).1 hg))
      (h.of_frame (respond_frame ..) rfl rfl rfl)

/-- The body comes to `IDLE` by the response alone, with no byte left. -/
theorem BodyArrow.responds_of_idle {t : State} (h : BodyArrow e s t) (hi : t.ph = .idle) :
    s.len = 0 ∧ t = respondChecksum s := by
  cases h with
  | prologue ph _ _ m | long ph _ _ m | short ph _ _ m | word ph _ _ m | tail ph _ _ m => simp [m.ph, ph] at hi
  | prologueEnds _ _ d | longEnds _ _ d | shortEnds _ _ d | wordEnds _ _ d => simp [d] at hi
  | responds _ guard d => exact ⟨by simpa [bytesLeft] using guard, d⟩

theorem OnCourse.inBody (h : OnCourse c r s) (hp : s.ph ≠ .idle) : InBody s := ⟨hp, h.guarded⟩

/-- An arrow out of a state on course answers, and leads to a state on course. -/
theorem OnCourse.arrow_answers (h : OnCourse c r s) (hp : s.ph ≠ .idle) :
    ∃ t e, arrow c s = .ok t ∧ OnCourse c r t ∧ BodyArrow e s t := by
  obtain ⟨e, he, hcourse⟩ := h.engine
  obtain ⟨t, ht, hct⟩ := hcourse.arrow_answers he (h.inBody hp) h.aligned
  cases arrow_cases ht with
  | idle ph _ => exact absurd ph hp
  | init ph _ => exact absurd ph h.guarded.1
  | detect ph _ => exact absurd ph h.guarded.2
  | body e' _ d =>
    refine ⟨t, e', ht, ⟨⟨e, (engineFor_of_bind c d.frame.bind).trans he, hct⟩, d.aligned h.aligned, d.ph_ne, ?_⟩, d⟩
    intro hi
    obtain ⟨hlen, rfl⟩ := d.responds_of_idle hi
    exact congrArg (· ^^^ allOnes) (hcourse.acc0_of_end hlen)

/-- A run of the body answers; it writes neither the host's side, nor a table, nor `BIND`. -/
theorem OnCourse.runArrows_answers (count : Nat) (h : OnCourse c r s) :
    ∃ t, runArrows c count s = .ok t ∧ OnCourse c r t ∧ BodyFrame s t := by
  induction count generalizing s with
  | zero => exact ⟨s, rfl, h, .refl s⟩
  | succ count ih =>
    by_cases hp : s.ph = .idle
    · exact ⟨s, runArrows_of_idle _ hp, h, .refl s⟩
    · obtain ⟨u, e, hu, hcu, d⟩ := h.arrow_answers hp
      obtain ⟨t, ht, hct, hf⟩ := ih hcu
      exact ⟨t, (runArrows_of_arrow hp hu).trans ht, hct, d.frame.trans hf⟩

/-- With its operands loaded a checksum command is on course for the byte oracle's value (R63, R68). -/
theorem onCourse_loadOperands {d : List U8} (he : engineFor c s = .ok e) (hr : s.n ≠ 0 → EngineReady e s)
    (hd : bufferBytes s s.a s.n = some d) : OnCourse c (raw (s.seed ^^^ allOnes) d) (loadOperands s) where
  engine := ⟨e, he, fun hl => (hr hl).of_frame (loadOperands_frame s), d,
    (bufferBytes_congr (s := loadOperands s) (t := s) rfl rfl _ _).trans hd, rfl⟩
  aligned := by simp
  guarded := by simp
  response := nofun

/-! ## How many arrows stay in a phase -/

/-- The phase that follows in the body (R24). -/
def Phase.following : Phase → Phase
  | .p => .l
  | .l => .s
  | .s => .w
  | .w => .t
  | .idle | .init | .detect | .t => .idle

/-- The bytes an arrow consumes that stays in the phase. -/
def Phase.stride : Phase → Nat
  | .p | .t => 1
  | .l => 3 * longBlock
  | .s => 3 * shortBlock
  | .w => 8
  | .idle | .init | .detect => 0

/-- How many arrows still stay in the phase before one leaves it: to the next multiple of 8 in `P`, else as many as the
bytes left have room for (R75). -/
def stays (s : State) : Nat :=
  match s.ph with
  | .p => min s.len ((8 - s.next % 8) % 8)
  | .l | .s | .w | .t => s.len / s.ph.stride
  | .idle | .init | .detect => 0

theorem stays_eq_div (hp : s.ph ≠ .p) : stays s = s.len / s.ph.stride := by
  unfold stays
  split
  · exact absurd ‹_› hp
  all_goals simp [Phase.stride, *]

/-- Outside `P` a stride consumed takes one off the count. -/
theorem Moved.stays_stride {k : Nat} {t : State} (m : Moved k s t) (hp : s.ph ≠ .p) (hk : s.ph.stride = k)
    (hpos : 0 < k) : stays s = stays t + 1 ∧ t.ph = s.ph ∧ t.len = s.len - s.ph.stride := by
  have ⟨_, _, hlen, hle, _⟩ := m
  refine ⟨?_, m.ph, by rw [hlen, hk]⟩
  rw [stays_eq_div hp, stays_eq_div (m.ph ▸ hp), m.ph, hk, hlen]
  exact Nat.div_eq_sub_div hpos hle

/-- In `P` a byte consumed takes one off the count: it brings the end, or the next multiple of 8, one nearer. -/
theorem Moved.stays_prologue {t : State} (m : Moved 1 s t) (hp : s.ph = .p) (hn : s.next % 8 ≠ 0) :
    stays s = stays t + 1 := by
  have hlen := m.len
  have hle := m.2.2.2.1
  simp only [stays, m.ph, hp]
  by_cases hz : t.len = 0
  · omega
  · rw [m.next hz]
    omega

/-- An arrow of the body stays in its phase and takes one off the count, or leaves it with the count at zero. -/
theorem BodyArrow.stays_or_leaves {t : State} (h : BodyArrow e s t) :
    (stays s = stays t + 1 ∧ t.ph = s.ph ∧ t.len = s.len - s.ph.stride) ∨
    (stays s = 0 ∧ t.ph = s.ph.following ∧ t.len = s.len) := by
  have hbelow (hp : s.ph ≠ .p) (hl : ¬ s.ph.stride ≤ s.len) : stays s = 0 := by
    rw [stays_eq_div hp]
    exact Nat.div_eq_of_lt (Nat.lt_of_not_le hl)
  cases h with
  | prologue ph guard _ m =>
    exact .inl ⟨m.stays_prologue ph ((prologueGoesOn_iff s).1 guard).2, m.ph, by rw [m.len, ph]; rfl⟩
  | long ph _ _ m | short ph _ _ m => exact .inl (m.stays_stride (by simp [ph]) (by rw [ph]; rfl) (by decide))
  | word ph _ _ m | tail ph _ _ m => exact .inl (m.stays_stride (by simp [ph]) (by rw [ph]; rfl) (by decide))
  | prologueEnds ph guard d =>
    subst d
    have hend := mt (prologueGoesOn_iff s).2 (by simp [guard])
    refine .inr ⟨?_, by rw [ph]; rfl, rfl⟩
    simp only [stays, ph]
    omega
  | longEnds ph guard d =>
    subst d
    refine .inr ⟨hbelow (by simp [ph]) ?_, by rw [ph]; rfl, rfl⟩
    rw [ph]
    exact mt (groupFits_iff .long s).2 (by simp [guard])
  | shortEnds ph guard d =>
    subst d
    refine .inr ⟨hbelow (by simp [ph]) ?_, by rw [ph]; rfl, rfl⟩
    rw [ph]
    exact mt (groupFits_iff .short s).2 (by simp [guard])
  | wordEnds ph guard d =>
    subst d
    refine .inr ⟨hbelow (by simp [ph]) ?_, by rw [ph]; rfl, rfl⟩
    rw [ph]
    exact mt (wordFits_iff s).2 (by simp [guard])
  | responds ph guard d =>
    subst d
    refine .inr ⟨hbelow (by simp [ph]) ?_, by rw [ph]; rfl, rfl⟩
    rw [ph]
    exact mt (bytesLeft_iff s).2 (by simp [guard]) ∘ Nat.one_le_iff_ne_zero.1

/-- All the arrows that stay in a phase of the body. -/
theorem OnCourse.arrows_stays (h : OnCourse c r s) {ph : Phase} (hp : s.ph = ph) (hidle : ph ≠ .idle) :
    ∃ t, arrows c (stays s) s = .ok t ∧ OnCourse c r t ∧ t.ph = ph ∧ stays t = 0 ∧
      t.len = s.len - ph.stride * stays s := by
  generalize hn : stays s = n
  induction n generalizing s with
  | zero => exact ⟨s, rfl, h, hp, hn, by simp⟩
  | succ n ih =>
    obtain ⟨u, e, hu, hcu, d⟩ := h.arrow_answers (hp ▸ hidle)
    obtain ⟨hstays, hph, hlen⟩ := d.stays_or_leaves.resolve_right (by omega)
    obtain ⟨t, ht, hct, hpt, hz, hlt⟩ := ih hcu (hph.trans hp) (by omega)
    refine ⟨t, by rw [arrows, hu]; exact ht, hct, hpt, hz, ?_⟩
    rw [hlt, hlen, hp, Nat.mul_succ, Nat.sub_sub, Nat.add_comm]

theorem arrows_succ_of_ok {t u : State} (n : Nat) (h : arrows c n s = .ok t) (hu : arrow c t = .ok u) :
    arrows c (n + 1) s = .ok u := by
  induction n generalizing s with
  | zero => cases h; rw [arrows, hu]; rfl
  | succ n ih =>
    obtain ⟨v, hv, h⟩ := except_bind_eq_ok.1 h
    rw [arrows, hv]
    exact ih h

/-- All the arrows that stay in a phase of the body, and the one that leaves it. -/
theorem OnCourse.arrows_leave (h : OnCourse c r s) {ph : Phase} (hp : s.ph = ph) (hidle : ph ≠ .idle) :
    ∃ t, arrows c (stays s + 1) s = .ok t ∧ OnCourse c r t ∧ t.ph = ph.following ∧
      t.len = s.len - ph.stride * stays s := by
  obtain ⟨t, ht, hct, hpt, hz, hlen⟩ := h.arrows_stays hp hidle
  obtain ⟨u, e, hu, hcu, d⟩ := hct.arrow_answers (hpt ▸ hidle)
  obtain ⟨-, hpu, hlu⟩ := d.stays_or_leaves.resolve_left (by omega)
  exact ⟨u, arrows_succ_of_ok _ ht hu, hcu, by rw [hpu, hpt], by rw [hlu, hlen]⟩

end

/-- Settles O9: the count of each phase is `stays` of the state it begins in. -/
theorem phaseByteCounts : Obligations.PhaseByteCounts := by
  unfold Obligations.PhaseByteCounts
  intro c e s d he hr hd
  have h0 := onCourse_loadOperands he (fun _ => hr) hd
  obtain ⟨s1, a1, h1, (p1 : s1.ph = .l), (l1 : s1.len = s.n - 1 * stays (loadOperands s))⟩ :=
    h0.arrows_leave (ph := .p) rfl nofun
  obtain ⟨s2, a2, h2, (p2 : s2.ph = .s), (l2 : s2.len = s1.len - 24576 * stays s1)⟩ := h1.arrows_leave p1 nofun
  obtain ⟨s3, a3, h3, (p3 : s3.ph = .w), (l3 : s3.len = s2.len - 768 * stays s2)⟩ := h2.arrows_leave p2 nofun
  obtain ⟨s4, a4, h4, (p4 : s4.ph = .t), (l4 : s4.len = s3.len - 8 * stays s3)⟩ := h3.arrows_leave p3 nofun
  obtain ⟨s5, a5, h5, p5, z5, (l5 : s5.len = s4.len - 1 * stays s4)⟩ := h4.arrows_stays p4 nofun
  obtain ⟨s6, e6, a6, h6, d6⟩ := h5.arrow_answers (by simp [p5])
  obtain ⟨-, p6, -⟩ := d6.stays_or_leaves.resolve_left (by omega)
  have c0 : stays (loadOperands s) = min s.n ((8 - s.a % 8) % 8) := rfl
  have c1 : stays s1 = s1.len / 24576 := by rw [stays_eq_div (by simp [p1]), p1]; rfl
  have c2 : stays s2 = s2.len / 768 := by rw [stays_eq_div (by simp [p2]), p2]; rfl
  have c3 : stays s3 = s3.len / 8 := by rw [stays_eq_div (by simp [p3]), p3]; rfl
  have c4 : stays s4 = s4.len := by rw [stays_eq_div (by simp [p4]), p4]; exact Nat.div_one _
  refine ⟨stays (loadOperands s), s1.len, stays s1, s2.len, stays s2, s3.len, stays s3, s4.len, c0, by omega, c1, l2,
    c2, l3, c3, by omega, by omega, s1, s2, s3, s4, s5, s6, a1, p1, rfl, a2, p2, rfl, a3, p3, rfl, a4, p4, rfl, ?_, p5,
    by omega, a6, by rw [p6, p5]; rfl⟩
  rwa [← c4]

end Sys2Proof.Machine
end

section
/-! PROOFS. The checksum commands from head to response (43_software_engine.md rules R72 to R74,
45_dispatch_and_entry.md rules R88 to R90): the response is the byte oracle's checksum, and what follows for empty
buffers, for buffers in two commands, and for one flipped bit. -/

namespace Sys2Proof.Machine

/-! ## From the head of a command to its body -/

/-- What `BIND` holds in the body of a checksum command: CRC32C alone has passed guard DETECT (R88). -/
def bindingAtBody (c : HostCmd) (s : State) : Binding := if c = .crc32c then boundAfter s else s.bind

theorem boundAfter_of_begun {s : State} (h : s.bind ≠ .uninitialized) : boundAfter s = s.bind := if_neg h

theorem boundAfter_ne_detecting {s : State} (h : s.bind ≠ .detecting) : boundAfter s ≠ .detecting := by
  unfold boundAfter
  split
  · cases s.hwCap <;> simp
  · exact h

theorem boundAfter_ne_uninitialized (s : State) : boundAfter s ≠ .uninitialized := by
  unfold boundAfter
  split
  · cases s.hwCap <;> simp
  · assumption

/-- What guard DETECT leaves in `BIND` agrees with `HW_CAP` (R85, R86). -/
theorem BindFits.boundAfter {s t : State} (h : BindFits s) (hb : t.bind = boundAfter s) (hc : t.hwCap = s.hwCap) :
    BindFits t := by
  unfold BindFits
  rw [hb, hc, Machine.boundAfter]
  split
  · cases s.hwCap <;> simp
  · exact h

section
variable {c : HostCmd} {s : State}

/-- After guard INIT a checksum command comes to its body with `BIND` resolved where it asks for that (R88). -/
theorem runArrows_afterInitGuard (hc : c ≠ .init) (s : State) (count : Nat) :
    ∃ k, runArrows c (count + 3) (afterInitGuard c s) =
      runArrows c (k + 1) (loadOperands (setBind (bindingAtBody c s) s)) := by
  obtain ⟨hg, hcmd, hb⟩ | ⟨hg, hb⟩ := afterInitGuard_cases c s
  · have h32 : c = .crc32c := hcmd.resolve_left hc
    have hstart : arrow c (enterPhase .detect s) = .ok (startDetect (enterPhase .detect s)) := by
      simp [arrow, detectArrow, hb]
    have hbody : loadOperands (finishDetect (startDetect (enterPhase .detect s))) =
        loadOperands (setBind (bindingAtBody c s) s) := by
      rw [bindingAtBody, if_pos h32, boundAfter, if_pos hb]
      rfl
    have hfinish : arrow c (startDetect (enterPhase .detect s)) =
        .ok (loadOperands (setBind (bindingAtBody c s) s)) := by
      rw [← hbody]
      simp [arrow, detectArrow, startDetect, afterDetectGuard_of_checksum hc]
    refine ⟨count, ?_⟩
    rw [hg, runArrows_of_arrow (by simp) hstart, runArrows_of_arrow (by simp [startDetect]) hfinish]
  · have hbind : bindingAtBody c s = s.bind := by
      unfold bindingAtBody
      split
      · exact boundAfter_of_begun (hb (.inr ‹_›))
      · rfl
    refine ⟨count + 2, ?_⟩
    rw [hg, afterDetectGuard_of_checksum hc, hbind]
    rfl

/-- A checksum command that is not refused runs its body over an initialised engine, with `BIND` resolved where it asks
for that; its way there writes tables and `BIND` alone. -/
theorem runCommand_eq_body (hc : c ≠ .init) (hu : c = .crcHw → s.hwCap = true) :
    ∃ k u, runCommand c s = runArrows c (k + 1) (loadOperands u) ∧ CommandFrame s u ∧ u.bind = bindingAtBody c s ∧
      u.initDone = true ∧ (TablesBuilt s → TablesBuilt u) := by
  obtain ⟨-, h, hcap⟩ | ⟨-, hd, hg⟩ | ⟨-, -, hg⟩ := beginCommand_cases c s
  · simp [hu h] at hcap
  · obtain ⟨k, hk⟩ := runArrows_afterInitGuard hc s (s.n + 7)
    refine ⟨k, setBind (bindingAtBody c s) s, ?_, (setBind_frame ..).1, rfl, hd, id⟩
    rw [runCommand, hg]
    exact hk
  · obtain ⟨me, mo, w, hbuild⟩ := buildTables_spec (enterPhase .init s)
    have harrow : arrow c (enterPhase .init s) = .ok (afterInitGuard c (initialised me mo w (enterPhase .init s))) :=
      congrArg (Except.map (afterInitGuard c)) hbuild
    obtain ⟨k, hk⟩ := runArrows_afterInitGuard hc (initialised me mo w (enterPhase .init s)) (s.n + 6)
    refine ⟨k, setBind (bindingAtBody c s) (initialised me mo w (enterPhase .init s)), ?_, ?_, rfl, rfl,
      fun _ => initialised_tablesBuilt me mo w (enterPhase .init s)⟩
    · rw [runCommand, hg]
      exact (runArrows_of_arrow (by simp) harrow).trans hk
    · exact ((enterPhase_frame .init s).toCommandFrame.trans (initialised_frame ..)).trans (setBind_frame ..).1

/-- A checksum command that comes to its response over a readable buffer: its unit is there (R109), no binding is under
way (R85), and where there are bytes to take the tables and `BIND` are as R16 and R85 say. -/
structure Runs (c : HostCmd) (s : State) : Prop where
  checksum : c ≠ .init
  unit : c = .crcHw → s.hwCap = true
  notDetecting : c = .crc32c → s.bind ≠ .detecting
  ready : s.n ≠ 0 → TablesBuilt s ∧ (c = .crc32c → BindFits s)

theorem crc32c_runs (ht : TablesBuilt s) (hf : BindFits s) (hb : s.bind ≠ .detecting) : Runs .crc32c s :=
  ⟨nofun, nofun, fun _ => hb, fun _ => ⟨ht, fun _ => hf⟩⟩

/-- In its body the command has an engine, which stands ready where there are bytes to take (R72, R83, R89). -/
theorem Runs.engine {u : State} (h : Runs c s) (hf : CommandFrame s u) (hb : u.bind = bindingAtBody c s)
    (hd : u.initDone = true) (ht : TablesBuilt s → TablesBuilt u) :
    ∃ e, engineFor c u = .ok e ∧ (u.n ≠ 0 → EngineReady e u) := by
  have hready (e : Engine) (he : u.n ≠ 0 → e = .hardware → u.hwCap = true) : u.n ≠ 0 → EngineReady e u :=
    fun hn => ⟨hd, ht (h.ready (hf.n ▸ hn)).1, he hn⟩
  cases c with
  | init => exact absurd rfl h.checksum
  | crcSw => exact ⟨.software, rfl, hready _ nofun⟩
  | crcHw => exact ⟨.hardware, rfl, hready _ fun _ _ => hf.hwCap.trans (h.unit rfl)⟩
  | crc32c =>
    have hb : u.bind = boundAfter s := hb
    have hfits : u.n ≠ 0 → BindFits u := fun hn => ((h.ready (hf.n ▸ hn)).2 rfl).boundAfter hb hf.hwCap
    cases hs : u.bind with
    | uninitialized => exact absurd (hb ▸ hs) (boundAfter_ne_uninitialized s)
    | detecting => exact absurd (hb ▸ hs) (boundAfter_ne_detecting (h.notDetecting rfl))
    | boundSoftware => exact ⟨.software, by simp [engineFor, hs], hready _ nofun⟩
    | boundHardware => exact ⟨.hardware, by simp [engineFor, hs], hready _ fun hn _ => (hfits hn).1 hs⟩

/-- A checksum command in the phase `Detecting` has no engine, and stops (R85). -/
theorem runCommand_of_detecting (h : s.bind = .detecting) : runCommand .crc32c s = .error .noSuchPhase := by
  obtain ⟨k, u, hrun, -, hb, -⟩ := runCommand_eq_body (c := .crc32c) (s := s) nofun nofun
  have hu : u.bind = .detecting := by
    rw [hb, bindingAtBody, if_pos rfl, boundAfter_of_begun (by simp [h]), h]
  have harrow : arrow .crc32c (loadOperands u) = .error .noSuchPhase := by
    simp [arrow, engineFor, hu]
  rw [hrun, runArrows, if_neg nofun, harrow]
  rfl

/-! ## The response -/

/-- A checksum command has responded for the bytes `d` (R46, R68): what it wrote, and its frame. -/
structure Checksummed (c : HostCmd) (s : State) (d : List U8) (t : State) : Prop extends CommandFrame s t where
  st : t.st = .ok
  res : t.res = byteCrc d s.seed
  ph : t.ph = .idle
  resValid : t.resValid = true
  bind : t.bind = bindingAtBody c s
  initDone : t.initDone = true
  tables : TablesBuilt s → TablesBuilt t

theorem Checksummed.responded {d : List U8} {t : State} (h : Checksummed c s d t) (ht : TablesBuilt s) :
    Responded s t :=
  ⟨h.ph, h.resValid, h.initDone, h.tables ht, h.hostSideSame, h.cwPending, h.micro⟩

/-- R73, R90: over a readable buffer a checksum command responds the byte oracle's checksum, whatever its engine, the
alignment and the way its bytes fall into groups. -/
theorem Runs.exec_checksummed {d : List U8} (h : Runs c s) (hd : bufferBytes s s.a s.n = some d) :
    ∃ t, exec (instrOf c) s = .next t ∧ Checksummed c s d t := by
  obtain ⟨k, u, hrun, hf, hb, hdone, htables⟩ := runCommand_eq_body h.checksum h.unit
  obtain ⟨e, he, hready⟩ := h.engine hf hb hdone htables
  have hdu : bufferBytes u u.a u.n = some d := by rw [bufferBytes_congr hf.aw hf.mem, hf.a, hf.n, hd]
  obtain ⟨t, ht, hcourse, hframe⟩ := (onCourse_loadOperands he hready hdu).runArrows_answers (k + 1)
  have hut : BodyFrame u t := (loadOperands_frame u).trans hframe
  rw [← hrun] at ht
  have hidle := runCommand_idle ht
  obtain ⟨hvalid, hst⟩ := (runCommand_response ht).resolve_left fun ⟨_, hc, hcap⟩ => by simp [h.unit hc] at hcap
  refine ⟨t, exec_instrOf_eq_next.2 ht, hf.trans hut.toCommandFrame, hst, ?_, hidle, hvalid, hut.bind.trans hb,
    hut.initDone.trans hdone, fun hs => hut.tablesBuilt (htables hs)⟩
  rw [hcourse.response hidle, hf.seed, byteCrc]

end

/-- Settles O39: CRC_SW has no guard DETECT, and its engine needs no unit. -/
theorem crcSwRespondsByteCrc : Obligations.CrcSwRespondsByteCrc := by
  unfold Obligations.CrcSwRespondsByteCrc
  intro s d ht hd
  have hruns : Runs .crcSw s := ⟨nofun, nofun, nofun, fun _ => ⟨ht, nofun⟩⟩
  obtain ⟨t, hexec, h⟩ := hruns.exec_checksummed hd
  exact ⟨t, hexec, h.st, h.res, h.responded ht, h.bind⟩

/-! ## Empty buffers and chaining -/

theorem xor_allOnes_xor_allOnes (v : U32) : v ^^^ allOnes ^^^ allOnes = v := by
  rw [BitVec.xor_assoc, BitVec.xor_self, BitVec.xor_zero]

theorem byteCrc_nil (seed : U32) : byteCrc [] seed = seed := xor_allOnes_xor_allOnes seed

/-- R74 (c): the checksum of the first bytes is the seed for the rest. -/
theorem byteCrc_append (d d' : List U8) (seed : U32) : byteCrc (d ++ d') seed = byteCrc d' (byteCrc d seed) := by
  simp only [byteCrc, raw_append, xor_allOnes_xor_allOnes]

/-- Settles O52: with no byte to take nothing is asked of the tables. -/
theorem emptyBufferReturnsTheSeed : Obligations.EmptyBufferReturnsTheSeed := by
  unfold Obligations.EmptyBufferReturnsTheSeed
  intro s i hn hi
  have hbytes : bufferBytes s s.a s.n = some [] := by rw [hn]; rfl
  have hcommand (c : HostCmd) (h : Runs c s) :
      ∃ t, exec (instrOf c) s = .next t ∧ t.st = .ok ∧ t.res = s.seed ∧ SameBytes s t := by
    obtain ⟨t, hexec, ht⟩ := h.exec_checksummed hbytes
    exact ⟨t, hexec, ht.st, ht.res.trans (byteCrc_nil s.seed), fun addr => by rw [ht.mem]⟩
  obtain rfl | ⟨rfl, hcap⟩ | ⟨rfl, hb⟩ := hi
  · exact hcommand .crcSw ⟨nofun, nofun, nofun, fun h => absurd hn h⟩
  · exact hcommand .crcHw ⟨nofun, fun _ => hcap, nofun, fun h => absurd hn h⟩
  · exact hcommand .crc32c ⟨nofun, nofun, fun _ => hb, fun h => absurd hn h⟩

/-- The rest of a buffer stands at the address that `A` keeps of its first byte's (R19). -/
theorem bufferBytes_rest {s : State} {addr n k : Nat} {d : List U8} (h : bufferBytes s addr n = some d) (hk : k ≤ n) :
    bufferBytes s ((addr + k) % 2 ^ s.aw) (n - k) = some (d.drop k) := by
  have hrest := bufferBytes_drop h hk
  by_cases hz : n - k = 0
  · rw [hz] at hrest ⊢
    exact hrest
  · have hend := bufferBytes_end h (by omega)
    rwa [Nat.mod_eq_of_lt (by omega)]

/-- CRC32C of given operands, whose bytes are those of the state they are written to. -/
theorem crc32c_withOperands {s : State} {addr n : Nat} {d : List U8} (ht : TablesBuilt s) (hf : BindFits s)
    (hb : s.bind ≠ .detecting) (hd : bufferBytes s addr n = some d) (seed : U32) :
    ∃ t, exec .crc32c { s with a := addr, n := n, seed := seed } = .next t ∧
      Checksummed .crc32c { s with a := addr, n := n, seed := seed } d t := by
  have hruns : Runs .crc32c { s with a := addr, n := n, seed := seed } := crc32c_runs ht hf hb
  exact hruns.exec_checksummed ((bufferBytes_congr (s := { s with a := addr, n := n, seed := seed }) (t := s) rfl rfl
    addr n).trans hd)

/-- Settles O53: the oracle composes, and the first command leaves the tables and `BIND` fit for the second. -/
theorem chainingEqualsOneShot : Obligations.ChainingEqualsOneShot := by
  unfold Obligations.ChainingEqualsOneShot
  intro s d k ht hf hb hd hk
  obtain ⟨t, hexec, h⟩ := crc32c_withOperands ht hf hb hd s.seed
  obtain ⟨t1, hexec1, h1⟩ := crc32c_withOperands ht hf hb (bufferBytes_take hd hk) s.seed
  have hbind : t1.bind = boundAfter s := h1.bind
  have hrest : bufferBytes t1 ((s.a + k) % 2 ^ s.aw) (s.n - k) = some (d.drop k) :=
    (bufferBytes_congr (t := s) h1.aw h1.mem _ _).trans (bufferBytes_rest hd hk)
  obtain ⟨t2, hexec2, h2⟩ := crc32c_withOperands (h1.tables ht) (hf.boundAfter hbind h1.hwCap)
    (hbind ▸ boundAfter_ne_detecting hb) hrest t1.res
  refine ⟨t, t1, t2, hexec, hexec1, hexec2, h2.st, ?_⟩
  rw [h2.res, h.res, h1.res, ← byteCrc_append, List.take_append_drop]

/-! ## One flipped bit -/

/-- The LFSR step shifts out no information: the polynomial's top bit is set. -/
theorem z1_eq_zero {v : U32} (h : z1 v = 0) : v = 0 := by
  have htop : (z1 v).getLsbD 31 = v.getLsbD 0 := by
    unfold z1
    cases v.getLsbD 0 <;> simp [poly]
  have hbit : v.getLsbD 0 = false := by rw [← htop, h]; rfl
  have hshift : v >>> 1 = 0 := by
    rw [z1, hbit] at h
    simpa using h
  refine BitVec.eq_of_getLsbD_eq fun j hj => ?_
  cases j with
  | zero => rw [hbit]; rfl
  | succ j =>
    have := congrArg (BitVec.getLsbD · j) hshift
    simpa [Nat.add_comm] using this

theorem zn_injective {v w : U32} {n : Nat} (h : zn v n = zn w n) : v = w := by
  have hzero : ∀ (u : U32) (n : Nat), zn u n = 0 → u = 0 := by
    intro u n hu
    induction n with
    | zero => exact hu
    | succ n ih => exact ih (z1_eq_zero hu)
  refine BitVec.xor_eq_zero_iff.1 (hzero _ n ?_)
  rw [zn_xor, h, BitVec.xor_self]
  rfl

/-- Different accumulators stay different through the same bytes. -/
theorem raw_injective {a a' : U32} {d : List U8} (h : raw a d = raw a' d) : a = a' := by
  rw [raw_eq_zn_xor a, raw_eq_zn_xor a', BitVec.xor_left_inj] at h
  exact zn_injective h

theorem swb_byteTable_injective {a : U32} {b b' : U8} (h : swb byteTable a b = swb byteTable a b') : b = b' := by
  rw [swb_byteTable, swb_byteTable] at h
  have hwide := (BitVec.xor_right_inj a).1 (zn_injective h)
  simpa using congrArg (BitVec.setWidth 8) hwide

/-- R74 (d): two byte sequences that differ in one byte have different checksums. -/
theorem byteCrc_set_ne {d : List U8} {j : Nat} (hj : j < d.length) {b : U8} (hb : d[j] ≠ b) (seed : U32) :
    byteCrc (d.set j b) seed ≠ byteCrc d seed := by
  intro h
  have hd : d = d.take j ++ d[j] :: d.drop (j + 1) := by simp
  have hraw : raw (seed ^^^ allOnes) (d.set j b) = raw (seed ^^^ allOnes) d := (BitVec.xor_left_inj allOnes).1 h
  rw [List.set_eq_take_append_cons_drop, if_pos hj, raw_append] at hraw
  conv_rhs at hraw => rw [hd, raw_append]
  exact hb (swb_byteTable_injective (raw_injective hraw)).symm

theorem flippedBit_ne (b : U8) (i : Fin 8) : b ≠ b ^^^ ((1 : U8) <<< i.val) := by
  have hone : ∀ i : Fin 8, (0 : U8) ≠ (1 : U8) <<< i.val := by decide
  exact fun h => hone i ((BitVec.xor_right_inj b).1 (BitVec.xor_zero.trans h))

/-- A CRC32C that answers over a readable buffer responds the oracle's checksum. -/
theorem crc32c_res {s t : State} {d : List U8} (ht : TablesBuilt s) (hf : BindFits s)
    (hd : bufferBytes s s.a s.n = some d) (h : exec .crc32c s = .next t) : t.res = byteCrc d s.seed := by
  have hb : s.bind ≠ .detecting := fun hb => by
    have hrun := (exec_instrOf_eq_next (c := .crc32c)).1 h
    simp [runCommand_of_detecting hb] at hrun
  obtain ⟨u, hu, hsum⟩ := (crc32c_runs ht hf hb).exec_checksummed hd
  cases h.symm.trans hu
  exact hsum.res

/-- Settles O54: both responses are the oracle's, over byte sequences that differ in one byte. -/
theorem oneFlippedBitChangesTheResult : Obligations.OneFlippedBitChangesTheResult := by
  unfold Obligations.OneFlippedBitChangesTheResult
  intro s t t' mem' d j b ht hf hd hd' h h'
  rw [crc32c_res ht hf hd h, crc32c_res (s := { s with mem := mem' }) ht hf hd' h']
  exact (byteCrc_set_ne j.isLt (flippedBit_ne _ b) s.seed).symm

end Sys2Proof.Machine
end

section
/-! PROOFS. The hardware engine (44_hardware_engine.md): its steps as LFSR steps (rules R77, R78), that on an
initialised engine every arrow is the software engine's (rules R79, R81, R82), HW1 with the tables built or not (rule
R80), and the command CRC_HW (rule R83). -/

namespace Sys2Proof.Machine

/-! ## The checksum unit's steps -/

theorem hwb_xor (a a' : U32) (b b' : U8) : hwb (a ^^^ a') (b ^^^ b') = hwb a b ^^^ hwb a' b' := by
  simp only [hwb, ← zn_xor, BitVec.setWidth_xor]
  ac_rfl

/-- The byte XORed in clears the low byte, so that the eight steps are a plain shift (R77). -/
theorem hwb_low_byte (a : U32) : hwb a (byteAt a 0) = a >>> 8 := by
  have hlow : ∀ i < 8, (a ^^^ (byteAt a 0).setWidth 32).getLsbD i = false := fun i hi => by
    have hi' : i < 32 := by omega
    simp [byteAt, hi, hi']
  rw [hwb, zn_of_low_zeros hlow]
  refine BitVec.eq_of_getLsbD_eq fun j _ => ?_
  simp

/-- Settles O40: the operation is `hwb`, a sequence of linear steps. -/
theorem hwbIsEightSteps : Obligations.HwbIsEightSteps := by
  unfold Obligations.HwbIsEightSteps
  intro s hc
  refine ⟨?_, hwb_low_byte, hwb_xor⟩
  change execHwb s = _
  rw [execHwb, hardware_byteStep hc, except_ok_bind, toOutcome_ok, hwb]

theorem wideSteps_eq_foldl (x : U64) (n : Nat) :
    wideSteps x n = (List.range n).foldl (fun y _ => wideStep y) x := by
  induction n with
  | zero => rfl
  | succ n ih => rw [List.range_succ, List.foldl_append, ← ih]; rfl

/-- The 32 bits HWW answers are the whole wide register (R78). -/
theorem hww_setWidth (a : U32) (w : U64) : (hww a w).setWidth 64 = wideSteps (a.setWidth 64 ^^^ w) 64 := by
  rw [hww_eq_raw, raw_wordBytes, wideSteps_eq_znWide]

/-- A word that is the accumulator leaves the wide register empty. -/
theorem hww_self (a : U32) : hww a (a.setWidth 64) = 0 := by
  rw [hww, BitVec.xor_self, wideSteps_of_low_zeros fun _ _ => BitVec.getLsbD_zero]
  rfl

/-- Settles O41: the operation is `hww`, whose 64 steps are the fold. -/
theorem hwwIsSixtyFourSteps : Obligations.HwwIsSixtyFourSteps := by
  unfold Obligations.HwwIsSixtyFourSteps
  intro s hc
  refine ⟨?_, fun a w => (hww_setWidth a w).trans (wideSteps_eq_foldl _ 64), hww_self⟩
  change execHww s = _
  rw [execHww, hardware_wordStep hc, except_ok_bind, toOutcome_ok]

theorem hww_eq_sww (a : U32) (w : U64) : hww a w = sww byteTable a w := by
  rw [hww_eq_raw, sww_byteTable]

/-- Settles O43: the table in closed form is the one BTAB builds. -/
theorem hardwareAndSoftwareStepsAgree : Obligations.HardwareAndSoftwareStepsAgree := by
  unfold Obligations.HardwareAndSoftwareStepsAgree
  rw [← byteTable_eq_closed]
  exact fun a b w => ⟨hwb_eq_swb a b, hww_eq_sww a w⟩

/-! ## The two engines over the same state -/

section
variable {s : State}

/-- Where the hardware engine stands ready the software engine does. -/
theorem EngineReady.software (h : EngineReady .hardware s) : EngineReady .software s := by
  obtain ⟨hd, ht, -⟩ := h
  exact ⟨hd, ht, nofun⟩

theorem EngineReady.byteStep_agree (h : EngineReady .hardware s) : byteStep .hardware s = byteStep .software s :=
  funext₂ fun a b => (h.byteStep_eq a b).trans (h.software.byteStep_eq a b).symm

theorem EngineReady.wordStep_agree (h : EngineReady .hardware s) : wordStep .hardware s = wordStep .software s :=
  funext₂ fun a w => (h.wordStep_eq a w).trans (h.software.wordStep_eq a w).symm

theorem EngineReady.consumeByte_agree (h : EngineReady .hardware s) :
    consumeByte .hardware s = consumeByte .software s := by
  rw [consumeByte, consumeByte, h.byteStep_agree]

theorem EngineReady.consumeWord_agree (h : EngineReady .hardware s) :
    consumeWord .hardware s = consumeWord .software s := by
  rw [consumeWord, consumeWord, h.wordStep_agree]

theorem EngineReady.laneIteration_agree (h : EngineReady .hardware s) (block i : Nat) :
    laneIteration .hardware block i s = laneIteration .software block i s := by
  rw [laneIteration, laneIteration, h.wordStep_agree]

/-- The iterations of a group write accumulators alone, so that the engine stands ready through all of them. -/
theorem EngineReady.laneLoop_agree (h : EngineReady .hardware s) (block count : Nat) :
    laneLoop .hardware block count s = laneLoop .software block count s := by
  induction count with
  | zero => rfl
  | succ count ih =>
    rw [laneLoop, laneLoop, ih]
    cases hu : laneLoop .software block count s with
    | error f => rfl
    | ok u =>
      have hready : EngineReady .hardware u := laneLoop_eq_ok hu ▸ h.of_frame (registers_frame ..)
      exact hready.laneIteration_agree block count

/-- R81, R82: a hardware group is the software group, stops included. -/
theorem EngineReady.group_agree (h : EngineReady .hardware s) (which : TableSel) :
    group .hardware which s = group .software which s := by
  have hready : EngineReady .hardware (setAcc2 0 (setAcc1 0 s)) := h.of_frame (registers_frame ..)
  rw [group, group, hready.laneLoop_agree]

/-- R79: on an initialised engine with the unit present every arrow of CRC_HW is that of CRC_SW. -/
theorem EngineReady.arrow_agree (h : EngineReady .hardware s) : arrow .crcHw s = arrow .crcSw s := by
  simp only [arrow, engineFor, except_ok_bind, h.consumeByte_agree, h.consumeWord_agree, h.group_agree]
  rfl

/-- An arrow of CRC_HW is that of CRC_SW where the tables are built, or are built by this arrow. -/
theorem arrow_agree_of_guard (h : s.ph ≠ .init → EngineReady .hardware s) : arrow .crcHw s = arrow .crcSw s := by
  by_cases hp : s.ph = .init
  · simp only [arrow, hp]
    rfl
  · exact (h hp).arrow_agree

/-- The arrow out of phase `INIT` leaves the engine ready, and every other leaves it so (R16, R40). -/
theorem engineReady_of_arrow {c : HostCmd} {t : State} (hc : s.hwCap = true)
    (h : s.ph ≠ .init → EngineReady .hardware s) (ha : arrow c s = .ok t) : EngineReady .hardware t := by
  by_cases hp : s.ph = .init
  · obtain ⟨u, hu, rfl⟩ : ∃ u, buildTables s = .ok u ∧ afterInitGuard c u = t := by
      simpa only [arrow, hp, except_map_eq_ok] using ha
    obtain ⟨me, mo, w, hbuild⟩ := buildTables_spec s
    cases hu.symm.trans hbuild
    have hready : EngineReady .hardware (initialised me mo w s) :=
      ⟨rfl, initialised_tablesBuilt me mo w s, fun _ => hc⟩
    exact hready.of_frame (afterInitGuard_frame c _)
  · obtain ⟨hd, ht, -⟩ := h hp
    have hsame := (arrow_tables hp ha).1
    exact ⟨hsame.initDone.trans hd, hsame.tablesBuilt ht, fun _ => (arrow_frame ha).hwCap.trans hc⟩

/-- A run of arrows of CRC_HW is that of CRC_SW. -/
theorem runArrows_agree (count : Nat) (hc : s.hwCap = true) (h : s.ph ≠ .init → EngineReady .hardware s) :
    runArrows .crcHw count s = runArrows .crcSw count s := by
  induction count generalizing s with
  | zero => rfl
  | succ count ih =>
    rw [runArrows, runArrows, arrow_agree_of_guard h]
    cases ht : arrow .crcSw s with
    | error f => rfl
    | ok t =>
      have hready := engineReady_of_arrow hc h ht
      exact congrArg (ite _ _) (ih ((arrow_frame ht).hwCap.trans hc) fun _ => hready)

theorem runCommand_agree (hc : s.hwCap = true) (ht : TablesBuilt s) : runCommand .crcHw s = runCommand .crcSw s := by
  have hhead : beginCommand .crcHw s = beginCommand .crcSw s := by
    simp only [beginCommand, hc]
    rfl
  have hf := beginCommand_frame .crcSw s
  rw [runCommand, runCommand, hhead]
  refine runArrows_agree _ (hf.hwCap.trans hc) fun hp => ?_
  have hd : s.initDone = true := by
    by_contra hd
    simp [beginCommand, hd] at hp
  exact EngineReady.of_frame ⟨hd, ht, fun _ => hc⟩ hf

end

/-- Settles O48: the commands run the same arrows. -/
theorem enginesAnswerTheSame : Obligations.EnginesAnswerTheSame := by
  unfold Obligations.EnginesAnswerTheSame
  refine fun s hc ht => ⟨?_, fun hd _ => EngineReady.arrow_agree ⟨hd, ht, fun _ => hc⟩⟩
  exact congrArg (finalOutcome ∘ toOutcome) (runCommand_agree hc ht)

/-- Settles O45: the group is a software group, which is the byte oracle. -/
theorem hardwareGroupsAreTheByteOracle : Obligations.HardwareGroupsAreTheByteOracle := by
  unfold Obligations.HardwareGroupsAreTheByteOracle
  intro s i which d hi hc hd ht hn hl hbytes hroom
  have hready : EngineReady .hardware s := ⟨hd, ht, fun _ => hc⟩
  have hsw : ∃ j, exec i s = exec j s ∧ ((j = .sw3s ∧ which = .short) ∨ (j = .sw3l ∧ which = .long)) := by
    obtain ⟨rfl, rfl⟩ | ⟨rfl, rfl⟩ := hi
    · exact ⟨.sw3s, congrArg toOutcome (hready.group_agree .short), .inl ⟨rfl, rfl⟩⟩
    · exact ⟨.sw3l, congrArg toOutcome (hready.group_agree .long), .inr ⟨rfl, rfl⟩⟩
  obtain ⟨j, hexec, hj⟩ := hsw
  rw [hexec]
  exact softwareGroupsAreTheByteOracle s j which d hj hd ht hn hl hbytes hroom

/-- Settles O46: CRC_HW comes to its response where its unit is there, and has no guard DETECT. -/
theorem crcHwRespondsByteCrc : Obligations.CrcHwRespondsByteCrc := by
  unfold Obligations.CrcHwRespondsByteCrc
  intro s d hc ht hd
  have hruns : Runs .crcHw s := ⟨nofun, fun _ => hc, nofun, fun _ => ⟨ht, nofun⟩⟩
  obtain ⟨t, hexec, h⟩ := hruns.exec_checksummed hd
  exact ⟨t, hexec, h.st, h.res, h.responded ht, h.bind⟩

/-! ## The single lane without tables -/

/-- The state with the tables built. -/
def withTables (s : State) : State := initialised none none .odd s

/-- The operation does with the tables built what it does without, stops included. -/
def TablesIrrelevant (f : State → Except Fault State) : Prop := ∀ s, f (withTables s) = (f s).map withTables

theorem TablesIrrelevant.bind {f g : State → Except Fault State} (hf : TablesIrrelevant f) (hg : TablesIrrelevant g) :
    TablesIrrelevant fun s => f s >>= g := by
  intro s
  simp only [hf s]
  cases f s with
  | error r => rfl
  | ok u => exact hg u

theorem advance_tablesIrrelevant (k : Nat) : TablesIrrelevant (advance k) := by
  intro s
  simp only [advance, apply_ite (Except.map withTables)]
  rfl

theorem consumeByte_tablesIrrelevant : TablesIrrelevant (consumeByte .hardware) := by
  intro s
  simp only [consumeByte, except_map_bind]
  exact bind_congr fun b => bind_congr fun v => advance_tablesIrrelevant 1 (setAcc0 v s)

theorem consumeWord_tablesIrrelevant : TablesIrrelevant (consumeWord .hardware) := by
  intro s
  simp only [consumeWord, except_map_bind]
  exact bind_congr fun w => bind_congr fun v => advance_tablesIrrelevant 8 (setAcc0 v s)

theorem loopWhile_tablesIrrelevant {cond : State → Bool} {body : State → Except Fault State}
    (hcond : ∀ s, cond (withTables s) = cond s) (hbody : TablesIrrelevant body) (count : Nat) :
    TablesIrrelevant (loopWhile cond body count) := by
  induction count with
  | zero => exact fun _ => rfl
  | succ count ih =>
    intro s
    rw [loopWhile, loopWhile, hcond]
    cases cond s with
    | false => rfl
    | true => exact hbody.bind ih s

/-- R80: the hardware engine's single lane reads no table. -/
theorem singleLane_tablesIrrelevant : TablesIrrelevant (singleLane .hardware) := by
  have hloop {cond : State → Bool} {body : State → Except Fault State} (hcond : ∀ s, cond (withTables s) = cond s)
      (hbody : TablesIrrelevant body) : TablesIrrelevant fun s => loopWhile cond body s.len s :=
    fun s => loopWhile_tablesIrrelevant hcond hbody s.len s
  exact (hloop (fun _ => rfl) consumeByte_tablesIrrelevant).bind
    ((hloop (fun _ => rfl) consumeWord_tablesIrrelevant).bind (hloop (fun _ => rfl) consumeByte_tablesIrrelevant))

/-- Settles O44: with the tables built HW1 is on the oracle's course, and without them it does the same. -/
theorem hw1IsTheByteOracle : Obligations.Hw1IsTheByteOracle := by
  unfold Obligations.Hw1IsTheByteOracle
  refine ⟨fun s d hc hbytes => ?_, fun s hl => congrArg toOutcome (singleLane_of_empty .hardware hl)⟩
  have hcourse : Course .hardware (raw s.acc0 d) (withTables s) :=
    ⟨fun _ => ⟨rfl, initialised_tablesBuilt none none .odd s, fun _ => hc⟩, d,
      (bufferBytes_congr (s := withTables s) (t := s) rfl rfl ..).trans hbytes, rfl⟩
  obtain ⟨u, hlane, hlen, hacc⟩ := hcourse.singleLane_answers
  rw [singleLane_tablesIrrelevant, except_map_eq_ok] at hlane
  obtain ⟨t, hlane, rfl⟩ := hlane
  exact ⟨t, congrArg toOutcome hlane, hacc, hlen, singleLane_eq_ok hlane⟩

end Sys2Proof.Machine
end

section
/-! PROOFS. The dispatcher and the entry point (45_dispatch_and_entry.md): DETECT (rule R86), INIT from head to
response (rules R87, R88), and the command CRC32C (rules R89, R90). -/

namespace Sys2Proof.Machine

/-! ## DETECT -/

theorem detect_of_uninitialized {s : State} (hb : s.bind = .uninitialized) :
    detect s = .ok (setBind (if s.hwCap then .boundHardware else .boundSoftware) s) := by
  simp only [detect, hb]
  rfl

theorem detect_of_begun {s : State} (hb : s.bind ≠ .uninitialized) : detect s = .error .detectStartedTwice := by
  unfold detect
  split
  · exact absurd ‹_› hb
  all_goals rfl

/-- Settles O49: only `Uninitialized` passes the test of `detect`, which then binds by `HW_CAP`. -/
theorem detectBindsByCapability : Obligations.DetectBindsByCapability := by
  unfold Obligations.DetectBindsByCapability
  intro s
  have hexec : exec .detect s = toOutcome (detect s) := rfl
  refine ⟨fun hb hc => ?_, fun hb hc => ?_, fun hb => ?_⟩
  · simp [hexec, detect_of_uninitialized hb, hc, setBind]
  · simp [hexec, detect_of_uninitialized hb, hc, setBind]
  · rw [hexec, detect_of_begun hb, toOutcome_error]

/-! ## INIT -/

/-- INIT behind guard INIT: it has responded with `BIND` resolved (R87, R88). -/
def initResponse (s : State) : State := respond .ok 0 (setBind (boundAfter s) s)

/-- On a resolved binding guard DETECT has nothing to do, and INIT writes its response alone (R88). -/
theorem initResponse_of_begun {s : State} (hb : s.bind ≠ .uninitialized) : initResponse s = respond .ok 0 s := by
  rw [initResponse, boundAfter_of_begun hb]
  rfl

/-- After guard INIT, INIT comes to its response, by way of guard DETECT if `BIND` is not resolved (R87, R88). -/
theorem runArrows_init_afterInitGuard (s : State) (count : Nat) :
    runArrows .init (count + 2) (afterInitGuard .init s) = .ok (initResponse s) := by
  obtain ⟨hg, -, hb⟩ | ⟨hg, hb⟩ := afterInitGuard_cases .init s
  · have hstart : arrow .init (enterPhase .detect s) = .ok (startDetect (enterPhase .detect s)) := by
      simp [arrow, detectArrow, hb]
    have hfinish : arrow .init (startDetect (enterPhase .detect s)) = .ok (initResponse s) := by
      rw [initResponse, boundAfter, if_pos hb]
      rfl
    rw [hg, runArrows_of_arrow (by simp) hstart, runArrows_of_arrow (by simp [startDetect]) hfinish,
      runArrows_of_idle _ rfl]
  · rw [hg, initResponse_of_begun (hb (.inl rfl))]
    exact runArrows_of_idle _ rfl

/-- On an initialised engine INIT builds nothing (R88). -/
theorem exec_init_of_initDone {s : State} (hd : s.initDone = true) : exec .init s = .next (initResponse s) := by
  have hg : beginCommand .init s = afterInitGuard .init s := by simp [beginCommand, hd]
  have hrun : runCommand .init s = .ok (initResponse s) := by
    rw [runCommand, hg]
    exact runArrows_init_afterInitGuard s (s.n + 8)
  exact (exec_instrOf_eq_next (c := .init)).2 hrun

/-- On first use INIT builds the tables ahead of its response (R87, R88). -/
theorem exec_init_of_not_initDone {s : State} (hd : s.initDone = false) :
    ∃ me mo w, exec .init s = .next (initResponse (initialised me mo w (enterPhase .init s))) := by
  obtain ⟨me, mo, w, hbuild⟩ := buildTables_spec (enterPhase .init s)
  have hg : beginCommand .init s = enterPhase .init s := by simp [beginCommand, hd]
  have harrow : arrow .init (enterPhase .init s) =
      .ok (afterInitGuard .init (initialised me mo w (enterPhase .init s))) :=
    congrArg (Except.map (afterInitGuard .init)) hbuild
  have hrun : runCommand .init s = .ok (initResponse (initialised me mo w (enterPhase .init s))) := by
    rw [runCommand, hg]
    exact (runArrows_of_arrow (by simp) harrow).trans (runArrows_init_afterInitGuard _ (s.n + 7))
  exact ⟨me, mo, w, (exec_instrOf_eq_next (c := .init)).2 hrun⟩

/-- INIT always comes to its response; its way there leaves `BIND` to the response and the tables built. -/
theorem exec_init_answers (s : State) : ∃ u, exec .init s = .next (initResponse u) ∧
    boundAfter u = boundAfter s ∧ u.initDone = true ∧ (TablesBuilt s → TablesBuilt u) := by
  cases hd : s.initDone with
  | true => exact ⟨s, exec_init_of_initDone hd, rfl, hd, id⟩
  | false =>
    obtain ⟨me, mo, w, h⟩ := exec_init_of_not_initDone hd
    exact ⟨_, h, rfl, rfl, fun _ => initialised_tablesBuilt me mo w _⟩

/-- Settles O50: INIT comes to its response behind both guards; a second INIT finds nothing left to do at either. -/
theorem initBuildsAndBindsOnce : Obligations.InitBuildsAndBindsOnce := by
  unfold Obligations.InitBuildsAndBindsOnce
  refine fun s ht => ⟨?_, fun hd hb => ?_⟩
  · obtain ⟨u, hexec, hbind, hdone, htables⟩ := exec_init_answers s
    have hf := runCommand_frame ((exec_instrOf_eq_next (c := .init)).1 hexec)
    exact ⟨initResponse u, hexec, rfl, rfl,
      ⟨rfl, rfl, hdone, htables ht, hf.hostSideSame, hf.cwPending, hf.micro⟩, hbind⟩
  · rw [exec_init_of_initDone hd, initResponse_of_begun hb]
    rfl

/-! ## CRC32C -/

/-- Settles O51: CRC32C comes to its response wherever no binding is under way, and has resolved `BIND` by then. -/
theorem crc32cRespondsByteCrc : Obligations.Crc32cRespondsByteCrc := by
  unfold Obligations.Crc32cRespondsByteCrc
  intro s d ht hf hb hd
  obtain ⟨t, hexec, h⟩ := (crc32c_runs ht hf hb).exec_checksummed hd
  exact ⟨t, hexec, h.st, h.res, h.responded ht, h.bind⟩

end Sys2Proof.Machine
end

section
/-! PROOFS. The refusal at the head of CRC_HW (60_exceptions.md rules R106, R109). -/

namespace Sys2Proof.Machine

/-- Without the unit CRC_HW is refused ahead of guard INIT (R106). -/
theorem beginCommand_crcHw_absent {s : State} (h : s.hwCap = false) :
    beginCommand .crcHw s = respond .unavailable 0 s := if_pos ⟨rfl, h⟩

/-- Settles O47: the head of the command is the refusal, which leaves no arrow to run. -/
theorem crcHwWithoutTheUnitIsUnavailable : Obligations.CrcHwWithoutTheUnitIsUnavailable := by
  unfold Obligations.CrcHwWithoutTheUnitIsUnavailable
  intro s hc
  have hrun : runCommand .crcHw s = .ok (respond .unavailable 0 s) := by
    rw [runCommand, beginCommand_crcHw_absent hc]
    exact runArrows_of_idle _ rfl
  exact (exec_instrOf_eq_next (c := .crcHw)).2 hrun

end Sys2Proof.Machine
end
